-- ==== Sys2Proof/Word.lean ====
section
/-! DEFINITION. The word types of the block (spec 00_scope.md R5, R6; 10_state.md R13; 30_encoding.md R45). -/

namespace Sys2Proof

/-- A byte: 8 bits, bit 0 the least significant (R5). -/
abbrev Byte := BitVec 8

/-- A destination address: 32 bits (R45). -/
abbrev Address := BitVec 32

/-- A destination port: 16 bits (R45). -/
abbrev Port := BitVec 16

/-- A length or offset register, `LEN_W` = 16 bits (R3, R13). -/
abbrev Len := BitVec 16

/-- A frame: the byte sequence of one packet on the link, index 0 first on the wire (R6). -/
abbrev Frame := List Byte

end Sys2Proof
end

