-- ==== Sys2Proof/Config.lean ====
section
/-! DEFINITION. What an instance of the block fixes (spec 00_scope.md R3, R4) and the free values the spec leaves open. -/

namespace Sys2Proof

/-- The free parameters of R3. The header sizes, `PENDING_SIZE` and `LEN_W` are not free. -/
structure Params where
  /-- Largest number of payload bytes in an INIT packet. -/
  initCapacity : Nat
  /-- Largest number of payload bytes in a DATA packet. -/
  dataCapacity : Nat
  /-- Size of the reassembly buffer; also the largest message `sendMessage` accepts. -/
  maxBufferSize : Nat
  /-- The link's maximum single-transmission size in bytes. -/
  linkMtu : Nat
  /-- Width in bits of the opaque completion-handler identifier. -/
  handlerW : Nat
  deriving DecidableEq, Repr

/-- The reference configuration REF of R3. -/
def Params.ref : Params :=
  { initCapacity := 24, dataCapacity := 28, maxBufferSize := 256, linkMtu := 33, handlerW := 32 }

/-- `PENDING_SIZE`, the size of the pending buffer (R3). -/
def Params.pendingSize (P : Params) : Nat := P.maxBufferSize - P.initCapacity

/-- `INIT_HEADER_SIZE` (R3, R47). -/
def initHeaderSize : Nat := 9

/-- `DATA_HEADER_SIZE` (R3, R48). -/
def dataHeaderSize : Nat := 4

/-- P1 to P5 of R4: the legal parameter sets. A hypothesis of statements; no step tests it (DESIGN CHOICE, log entry 19). -/
abbrev Params.Legal (P : Params) : Prop :=
  (1 ≤ P.initCapacity ∧ P.initCapacity ≤ 255 ∧ 1 ≤ P.dataCapacity ∧ P.dataCapacity ≤ 255) ∧
  P.initCapacity ≤ P.maxBufferSize ∧
  P.maxBufferSize ≤ P.initCapacity + 256 * P.dataCapacity ∧
  max (initHeaderSize + P.initCapacity) (dataHeaderSize + P.dataCapacity) ≤ P.linkMtu ∧
  1 ≤ P.handlerW

/-- The two byte memories, each an address space of its own (20_memory.md R30). -/
inductive MemSpace where
  | pendingBuffer
  | reassemblyBuffer
  deriving DecidableEq, Repr

/-- What a byte that nothing has written since power-on holds: unspecified (70_reset_and_hazards.md R121, R122; 93 U4).
A FREE VALUE, one per memory and address. DESIGN CHOICE (log entry 8), safe: nothing can be proved of it. -/
opaque Config.powerOnByte : MemSpace → Nat → BitVec 8

/-- The link's answer to the `n`th write, for a write to which `State.linkAnswers` holds none: the link's choice
(43_host_and_link.md R95; 93 U12). A FREE VALUE. DESIGN CHOICE (log entry 5), safe. -/
opaque Config.linkAnswer : Nat → Bool

end Sys2Proof
end

