-- ==== Sys2Proof/Syntax.lean ====
section
/-! DEFINITION. Packets (spec 30_encoding.md R45) and the instructions: one constructor per row of `spec/opcode_table.json`
(00_scope.md R9: an instruction is a host operation, or an inbound wire packet processed by `onPacketReceived`). -/

namespace Sys2Proof

/-- A structured packet (R45). -/
inductive Packet where
  | init (isLastFragment : Bool) (checksum : Byte) (address : Address) (port : Port) (dataLen : Byte) (payload : List Byte)
  | data (isLastFragment : Bool) (checksum : Byte) (fragmentIndex : Byte) (dataLen : Byte) (payload : List Byte)
  deriving DecidableEq, Repr

/-- The instructions. The last-fragment flag of a packet selects its row, so it is no operand here. -/
inductive Instr where
  /-- `INIT`: byte 0 is `0x00`. -/
  | init (checksum : Byte) (address : Address) (port : Port) (dataLen : Byte) (payload : List Byte)
  /-- `INIT.L`: byte 0 is `0x02`. -/
  | initL (checksum : Byte) (address : Address) (port : Port) (dataLen : Byte) (payload : List Byte)
  /-- `DATA`: byte 0 is `0x01`. -/
  | data (checksum : Byte) (fragmentIndex : Byte) (dataLen : Byte) (payload : List Byte)
  /-- `DATA.L`: byte 0 is `0x03`. -/
  | dataL (checksum : Byte) (fragmentIndex : Byte) (dataLen : Byte) (payload : List Byte)
  /-- Operation code 1. -/
  | sendMessage (address : Address) (port : Port) (size : Len) (payload : List Byte)
  /-- Operation code 2. -/
  | pumpPendingFragment
  /-- Operation code 3. -/
  | onPacketReceived (rawBytes : Frame)
  /-- Operation code 4; the handler is an opaque identifier below `2 ^ HANDLER_W`. -/
  | setCompletionHandler (handler : Nat)
  /-- Operation code 5. -/
  | tick
  deriving DecidableEq, Repr

/-- The two encoding spaces of the opcode table (R62), each holding whole transactions as bytes: a command word with its
operands on the COMMAND interface, or a frame. -/
inductive InstrWord where
  | command (bytes : List Byte)
  | frame (bytes : Frame)
  deriving DecidableEq, Repr

end Sys2Proof
end

