-- ==== Sys2Proof/WellFormed.lean ====
section
/-! DEFINITION. Which packets and instructions are well-formed under a parameter set (spec 30_encoding.md R56, R60). -/

namespace Sys2Proof

/-- R60: `dataLen` is at most the type's capacity, and the payload has exactly `dataLen` bytes. -/
def Packet.wf (P : Params) : Packet → Bool
  | .init _ _ _ _ dataLen payload =>
    decide (dataLen.toNat ≤ P.initCapacity) && decide (payload.length = dataLen.toNat)
  | .data _ _ _ dataLen payload =>
    decide (dataLen.toNat ≤ P.dataCapacity) && decide (payload.length = dataLen.toNat)

/-- R56 and R60: the operands an instruction of each kind may carry. `exec` does not test it: log entry 18 for a long frame,
log entry 20 for a payload of another length (DESIGN CHOICE, safe: no transaction decodes to one). -/
def Instr.wf (P : Params) : Instr → Bool
  | .init _ _ _ dataLen payload => (Packet.init false 0 0 0 dataLen payload).wf P
  | .initL _ _ _ dataLen payload => (Packet.init true 0 0 0 dataLen payload).wf P
  | .data _ _ dataLen payload => (Packet.data false 0 0 dataLen payload).wf P
  | .dataL _ _ dataLen payload => (Packet.data true 0 0 dataLen payload).wf P
  | .sendMessage _ _ size payload => decide (payload.length = size.toNat)
  | .pumpPendingFragment => true
  | .onPacketReceived rawBytes => decide (rawBytes.length ≤ P.linkMtu)
  | .setCompletionHandler handler => decide (handler < 2 ^ P.handlerW)
  | .tick => true

end Sys2Proof
end

