-- ==== Sys2Proof/Decode.lean ====
section
/-! DEFINITION. Decoding and encoding of frames (spec 30_encoding.md R46 to R55; 40_codec.md R67, R68) and of commands
(30_encoding.md R56, R57), each total on any bytes and rejecting by name. -/

namespace Sys2Proof

/-! ### Fields and bytes -/

/-- The bytes of an address, most significant first (R33, R47). -/
def addressBytes (a : Address) : List Byte :=
  [a.extractLsb' 24 8, a.extractLsb' 16 8, a.extractLsb' 8 8, a.extractLsb' 0 8]

/-- R49: assembly of an address from its four bytes, most significant first. -/
def addressOfBytes (b3 b2 b1 b0 : Byte) : Address :=
  BitVec.ofNat 32 (b3.toNat * 2 ^ 24 + b2.toNat * 2 ^ 16 + b1.toNat * 2 ^ 8 + b0.toNat)

/-- The bytes of a 16-bit field, most significant first (R33, R47). -/
def halfBytes (v : BitVec 16) : List Byte :=
  [v.extractLsb' 8 8, v.extractLsb' 0 8]

/-- R50: assembly of a 16-bit field from its two bytes, most significant first. -/
def halfOfBytes (b1 b0 : Byte) : BitVec 16 :=
  BitVec.ofNat 16 (b1.toNat * 2 ^ 8 + b0.toNat)

/-- The `n` low bytes of a number, most significant first. -/
def bytesOfNat : Nat → Nat → List Byte
  | 0, _ => []
  | n + 1, v => BitVec.ofNat 8 (v / 256 ^ n) :: bytesOfNat n v

/-- The number that bytes spell, most significant first. -/
def natOfBytes (bytes : List Byte) : Nat :=
  bytes.foldl (fun acc b => acc * 256 + b.toNat) 0

/-- How many bytes carry a handler identifier in a command. DESIGN CHOICE (log entry 2). -/
def handlerBytes (P : Params) : Nat := (P.handlerW + 7) / 8

/-! ### The FLAGS byte (R46) -/

/-- Bit 0 is the type (0 INIT, 1 DATA), bit 1 is `isLastFragment`, bits 7:2 are 0. -/
def flagsByte (isData isLastFragment : Bool) : Byte :=
  BitVec.ofNat 8 ((if isLastFragment then 2 else 0) + (if isData then 1 else 0))

/-- `flags(p)` of R65. -/
def Packet.flags : Packet → Byte
  | .init isLast _ _ _ _ _ => flagsByte false isLast
  | .data isLast _ _ _ _ => flagsByte true isLast

/-! ### Decoding -/

/-- The checks of R54, in their order. -/
inductive FrameError where
  /-- M1: the frame is empty. -/
  | noFlagsByte
  /-- M2: a bit of FLAGS[7:2] is set. -/
  | reservedFlagsBit
  /-- M3: the frame is shorter than its header. -/
  | shortHeader
  /-- M4: `dataLen` is above the type's capacity. -/
  | dataLenAboveCapacity
  /-- M5: the frame is shorter than its header and payload. -/
  | truncatedPayload
  deriving DecidableEq, Repr

/-- Why a transaction names no instruction. -/
inductive DecodeError where
  /-- A malformed frame (R54). -/
  | malformedFrame (e : FrameError)
  /-- Operation code 0, 6 or 7 (R57). -/
  | reservedOpcode
  /-- A command transaction that ends before its op code or its operands do. DESIGN CHOICE (log entry 4). -/
  | truncatedCommand
  deriving DecidableEq, Repr

/-- The INIT branch of R68, on the bytes after FLAGS. -/
def decodeInitBody (P : Params) (isLast : Bool) : List Byte → Except FrameError Packet
  | checksum :: a3 :: a2 :: a1 :: a0 :: p1 :: p0 :: dataLen :: rest =>
    if P.initCapacity < dataLen.toNat then .error .dataLenAboveCapacity
    else if rest.length < dataLen.toNat then .error .truncatedPayload
    else .ok (.init isLast checksum (addressOfBytes a3 a2 a1 a0) (halfOfBytes p1 p0) dataLen (rest.take dataLen.toNat))
  | _ => .error .shortHeader

/-- The DATA branch of R68, on the bytes after FLAGS. -/
def decodeDataBody (P : Params) (isLast : Bool) : List Byte → Except FrameError Packet
  | checksum :: fragmentIndex :: dataLen :: rest =>
    if P.dataCapacity < dataLen.toNat then .error .dataLenAboveCapacity
    else if rest.length < dataLen.toNat then .error .truncatedPayload
    else .ok (.data isLast checksum fragmentIndex dataLen (rest.take dataLen.toNat))
  | _ => .error .shortHeader

/-- R68: `decode(f)`. Bytes beyond the packet are ignored (R55). -/
def decodeFrame (P : Params) : Frame → Except FrameError Packet
  | [] => .error .noFlagsByte
  | flags :: body =>
    if flags.extractLsb' 2 6 ≠ 0 then .error .reservedFlagsBit
    else if flags.getLsbD 0 then decodeDataBody P (flags.getLsbD 1) body
    else decodeInitBody P (flags.getLsbD 1) body

/-- The row of the opcode table a packet belongs to (R62). -/
def Packet.toInstr : Packet → Instr
  | .init false c a p n d => .init c a p n d
  | .init true c a p n d => .initL c a p n d
  | .data false c k n d => .data c k n d
  | .data true c k n d => .dataL c k n d

/-- The operands of `sendMessage` (R56): address, port, size, then `size` payload bytes. DESIGN CHOICE (log entry 2). -/
def decodeSendOperands : List Byte → Except DecodeError Instr
  | a3 :: a2 :: a1 :: a0 :: p1 :: p0 :: s1 :: s0 :: rest =>
    if rest.length < (halfOfBytes s1 s0).toNat then .error .truncatedCommand
    else .ok (.sendMessage (addressOfBytes a3 a2 a1 a0) (halfOfBytes p1 p0) (halfOfBytes s1 s0)
      (rest.take (halfOfBytes s1 s0).toNat))
  | _ => .error .truncatedCommand

/-- The operand of `setCompletionHandler` (R56): `HANDLER_W` bits. DESIGN CHOICE (log entry 2). -/
def decodeHandlerOperand (P : Params) (operands : List Byte) : Except DecodeError Instr :=
  if operands.length < handlerBytes P then .error .truncatedCommand
  else .ok (.setCompletionHandler (natOfBytes (operands.take (handlerBytes P)) % 2 ^ P.handlerW))

/-- R56 and R57: the operation code is bits 2:0 of the first byte (log entry 3), the operands follow. -/
def decodeCommand (P : Params) : List Byte → Except DecodeError Instr
  | [] => .error .truncatedCommand
  | word :: operands =>
    match (word.extractLsb' 0 3).toNat with
    | 1 => decodeSendOperands operands
    | 2 => .ok .pumpPendingFragment
    | 3 => .ok (.onPacketReceived operands)
    | 4 => decodeHandlerOperand P operands
    | 5 => .ok .tick
    | _ => .error .reservedOpcode

/-- The instruction of a transaction, in either encoding space. -/
def decode (P : Params) : InstrWord → Except DecodeError Instr
  | .command bytes => decodeCommand P bytes
  | .frame bytes =>
    match decodeFrame P bytes with
    | .ok p => .ok p.toInstr
    | .error e => .error (.malformedFrame e)

/-! ### Encoding -/

/-- R67: `encode(p)`. -/
def encodePacket : Packet → Frame
  | .init isLast checksum address port dataLen payload =>
    [flagsByte false isLast, checksum] ++ addressBytes address ++ halfBytes port ++ [dataLen]
      ++ payload.take dataLen.toNat
  | .data isLast checksum fragmentIndex dataLen payload =>
    [flagsByte true isLast, checksum, fragmentIndex, dataLen] ++ payload.take dataLen.toNat

/-- The transaction of an instruction: a frame by R47, R48, or a command by R56 (operand layout: log entry 2). -/
def encode (P : Params) : Instr → InstrWord
  | .init c a p n d => .frame (encodePacket (.init false c a p n d))
  | .initL c a p n d => .frame (encodePacket (.init true c a p n d))
  | .data c k n d => .frame (encodePacket (.data false c k n d))
  | .dataL c k n d => .frame (encodePacket (.data true c k n d))
  | .sendMessage a p size payload => .command ([1#8] ++ addressBytes a ++ halfBytes p ++ halfBytes size ++ payload)
  | .pumpPendingFragment => .command [2#8]
  | .onPacketReceived rawBytes => .command (3#8 :: rawBytes)
  | .setCompletionHandler handler => .command (4#8 :: bytesOfNat (handlerBytes P) handler)
  | .tick => .command [5#8]

/-! ### The opcode table's own words -/

/-- `n` bytes of a word numbered as the opcode table numbers bits: byte 0 is bits 7:0. -/
def tableBytes (n w : Nat) : List Byte :=
  (List.range n).map fun k => BitVec.ofNat 8 (w / 256 ^ k)

/-- The transaction an opcode-table word stands for, every bit above `nbits` 0. The table lists two encoding spaces in one
numbering; a word of one byte that holds an operation code 1 to 5 is read as a command, every other as a frame.
DESIGN CHOICE (log entry 15). -/
def tableWord (P : Params) (nbits w : Nat) : InstrWord :=
  let bytes := tableBytes ((nbits + 7) / 8) w ++ List.replicate P.linkMtu 0#8
  if nbits ≤ 8 ∧ 1 ≤ w % 8 ∧ w % 8 ≤ 5 then .command bytes else .frame bytes

/-- The instruction the decoder reads from an opcode-table word, in the reference configuration. -/
def decodeTableWord (nbits w : Nat) : Option Instr :=
  (decode Params.ref (tableWord Params.ref nbits w)).toOption

end Sys2Proof
end

