-- ==== Sys2Proof/Machine/State.lean ====
section
/-! DEFINITION. The state of the machine (spec 10_state.md R13), its inputs and outputs as plain data, and reset
(70_reset_and_hazards.md R121). -/

namespace Sys2Proof.Machine

/-- A byte memory: the bytes written since power-on, as (address, byte) pairs with addresses strictly rising. An address
that is not listed holds no value of its own (log entry 8). -/
abbrev Memory := List Host.Cell

/-- The causes of R106. -/
inductive Cause where
  | none
  | checksumMismatch
  | bufferOverflow
  | concurrentTransferRejected
  | transmitFailure
  | malformedFrame
  | txBusy
  | txSize
  | illegalCommand
  deriving DecidableEq, Repr

/-- The pair `(cause, completed)` of R105. -/
structure Report where
  cause : Cause
  completed : Bool
  deriving DecidableEq, Repr

/-- The outcome of an operation (R105); that of `tick` is the pair of its pump part and its receive part. -/
inductive OpOutcome where
  | single (r : Report)
  | tick (pump receive : Report)
  deriving DecidableEq, Repr

/-- The output events of R93. -/
inductive OutEvent where
  | linkStop
  | linkWrite (frame : Frame)
  | linkResume
  | done (handler : Nat) (length : Len) (snapshot : List Byte)
  deriving DecidableEq, Repr

/-- What the environment does to the block between two operations. -/
inductive HostInput where
  /-- The reset input is asserted (R120). -/
  | reset
  /-- The link receives a frame and holds it for the next poll (R25, R97; log entry 6). -/
  | frameArrives (frame : Frame)
  /-- The host gives a transaction: a command (R94), or a frame for `onPacketReceived` to process (R9; log entry 7). -/
  | word (w : InstrWord)
  deriving DecidableEq, Repr

/-- Why the machine stops with a fault. -/
inductive Fault where
  /-- Raised by a copy out of the pending buffer that would run past its end (R34: "never started"). No state that meets
  `State.Inv` raises it. Safe (log entry 16). -/
  | outsideMemory (space : MemSpace) (address length : Nat)
  deriving DecidableEq, Repr

/-- Why the machine gives no meaning. -/
inductive Refusal where
  /-- An instruction without a meaning; raised by no arm of `exec`. Safe. -/
  | notModelled (mnemonic : String)
  /-- Raised by `step` for a command transaction that ends before its operands do, which the interface never carries
  (R94: "one operation ... with its operands"). Safe (log entry 4). -/
  | truncatedCommand
  deriving DecidableEq, Repr

/-- The block and what it is connected to. The seven items of R13 come after `params`; the rest is the model's own: inputs the
block does not choose (R8, R104) and outputs it has given (R93, R105). -/
structure State where
  /-- The parameters the block was built with (R3; log entry 1). No step changes them. -/
  params : Params
  /-- R14: message bytes not carried by the INIT packet; 0 when no Transmit Session exists. -/
  txTotalLen : Len
  /-- R15: bytes of `pendingBuffer` already sent. -/
  txSentOffset : Len
  /-- R21. -/
  pendingBuffer : Memory
  /-- R19: the running byte count of the inbound message. -/
  rxReceivedLen : Len
  /-- R22. -/
  reassemblyBuffer : Memory
  /-- R20: a completion handler is registered. -/
  cbValid : Bool
  /-- R20: the handler's opaque identifier, below `2 ^ HANDLER_W` (log entry 10). -/
  cbHandler : Nat
  /-- What the environment does next, in order (log entry 14). -/
  inputs : List HostInput
  /-- The link's answers to the coming writes, in order (log entry 5). -/
  linkAnswers : List Bool
  /-- How many writes the link has answered. -/
  linkWrites : Nat
  /-- The frames the link holds, oldest first (R25, R97; log entry 6). -/
  inbound : List Frame
  /-- The output events so far, oldest first (R93; log entry 11). -/
  trace : List OutEvent
  /-- The outcomes so far, oldest first (R105; log entry 11). -/
  outcomes : List OpOutcome
  deriving DecidableEq, Repr

/-- R121, with the configuration REF (R3), nothing connected yet, and `cbHandler` at 0 (DESIGN CHOICE, log entry 9). -/
def State.reset : State :=
  { params := Params.ref
    txTotalLen := 0
    txSentOffset := 0
    pendingBuffer := []
    rxReceivedLen := 0
    reassemblyBuffer := []
    cbValid := false
    cbHandler := 0
    inputs := []
    linkAnswers := []
    linkWrites := 0
    inbound := []
    trace := []
    outcomes := [] }

end Sys2Proof.Machine
end

