-- ==== Sys2Proof/Machine/Flags.lean ====
section
/-! DEFINITION. Derived status (spec 10_state.md R17, R18, R24), cause codes (60_exceptions.md R106) and the checksum with its
integrity gate (40_codec.md R65, R69). -/

namespace Sys2Proof.Machine

/-- R17: a Transmit Session exists. -/
def txActive (s : State) : Bool := s.txTotalLen != 0

/-- The two states of the reassembler (R18). -/
inductive RxState where
  | idle
  | receiving
  deriving DecidableEq, Repr

/-- R18. -/
def rxState (s : State) : RxState := if s.rxReceivedLen = 0 then .idle else .receiving

/-- The code of a cause (R106). -/
def causeCode : Cause → Nat
  | .none => 0
  | .checksumMismatch => 1
  | .bufferOverflow => 2
  | .concurrentTransferRejected => 3
  | .transmitFailure => 4
  | .malformedFrame => 5
  | .txBusy => 6
  | .txSize => 7
  | .illegalCommand => 8

/-- Folds bytes into the 8-bit running value of R65. -/
def xorFold (start : Byte) (bytes : List Byte) : Byte :=
  bytes.foldl (fun c b => c ^^^ b) start

/-- R65. The port and the checksum field do not enter. -/
def calcChecksum (p : Packet) : Byte :=
  match p with
  | .init _ _ address _ dataLen payload =>
    xorFold (xorFold p.flags (addressBytes address) ^^^ dataLen) (payload.take dataLen.toNat)
  | .data _ _ fragmentIndex dataLen payload =>
    xorFold (p.flags ^^^ fragmentIndex ^^^ dataLen) (payload.take dataLen.toNat)

/-- The `checksum` field of a packet. -/
def packetChecksum : Packet → Byte
  | .init _ checksum _ _ _ _ => checksum
  | .data _ checksum _ _ _ => checksum

/-- R69: the integrity gate. -/
def packetValid (p : Packet) : Bool := packetChecksum p == calcChecksum p

/-- R67: `seal(p)`, `p` with its checksum computed. -/
def sealPacket (p : Packet) : Packet :=
  match p with
  | .init isLast _ address port dataLen payload => .init isLast (calcChecksum p) address port dataLen payload
  | .data isLast _ fragmentIndex dataLen payload => .data isLast (calcChecksum p) fragmentIndex dataLen payload

end Sys2Proof.Machine
end

