-- ==== Sys2Proof/Machine/Operands.lean ====
section
/-! DEFINITION. The values operations compute from their operands and the length registers (spec 20_memory.md R36, R43;
41_transmit.md R73, R75; 42_receive.md R84, R90). -/

namespace Sys2Proof.Machine

/-- R36, R43: where the bytes of fragment `k` go in the reassembly buffer. -/
def fragmentOffset (P : Params) (k : Nat) : Nat := P.initCapacity + k * P.dataCapacity

/-- R84, R37: a DATA packet's bytes fit the reassembly buffer. -/
def fragmentFits (P : Params) (fragmentIndex dataLen : Byte) : Bool :=
  decide (fragmentOffset P fragmentIndex.toNat + dataLen.toNat ≤ P.maxBufferSize)

/-- R7: saturating addition of a 16-bit and an 8-bit value (R90). -/
def satAdd16 (a : Len) (b : Byte) : Len := BitVec.ofNat 16 (min (a.toNat + b.toNat) 65535)

/-- R7: `zext_16` of an 8-bit value. -/
def zext16 (b : Byte) : Len := b.setWidth 16

/-- R73: the packet `sendMessage` builds, before it is sealed. -/
def messageInit (P : Params) (address : Address) (port : Port) (size : Len) (payload : List Byte) : Packet :=
  if size.toNat ≤ P.initCapacity then
    .init true 0 address port (BitVec.ofNat 8 size.toNat) (payload.take size.toNat)
  else
    .init false 0 address port (BitVec.ofNat 8 P.initCapacity) (payload.take P.initCapacity)

/-- R73: `payload[INIT_CAPACITY .. size]`, the bytes kept for the DATA packets. -/
def messageRest (P : Params) (size : Len) (payload : List Byte) : List Byte :=
  (payload.take size.toNat).drop P.initCapacity

/-- R75: `idx`, the index of the next fragment. -/
def nextIndex (s : State) : Nat := s.txSentOffset.toNat / s.params.dataCapacity

/-- R75: `n`, the number of bytes in the next fragment. With an offset past the total, which R26 rules out, it is 0 (DESIGN
CHOICE, log entry 17). -/
def nextLength (s : State) : Nat :=
  min s.params.dataCapacity (s.txTotalLen.toNat - s.txSentOffset.toNat)

/-- R75: `last`, the next fragment reaches the end of the session's bytes. -/
def nextIsLast (s : State) : Bool := s.txSentOffset.toNat + nextLength s == s.txTotalLen.toNat

end Sys2Proof.Machine
end

