-- ==== Sys2Proof/Machine/Ops.lean ====
section
/-! DEFINITION. The named operations over memories, registers and channels, and the shared sub-operations of the spec
(00_scope.md R7; 42_receive.md R85; 43_host_and_link.md R96, R97; 60_exceptions.md R105; 70_reset_and_hazards.md R120). -/

namespace Sys2Proof.Machine

/-! ### Memories -/

/-- The byte listed at an address, if there is one. -/
def Memory.cellAt : Memory → Nat → Option Byte
  | [], _ => none
  | (a, b) :: m, x => if a = x then some b else Memory.cellAt m x

/-- Lists a byte at an address, keeping the addresses strictly rising. -/
def Memory.put : Memory → Nat → Byte → Memory
  | [], x, v => [(x, v)]
  | (a, b) :: m, x, v =>
    if x < a then (x, v) :: (a, b) :: m
    else if x = a then (x, v) :: m
    else (a, b) :: Memory.put m x v

/-- Lists bytes at consecutive ascending addresses (R31). -/
def Memory.putBytes : Memory → Nat → List Byte → Memory
  | m, _, [] => m
  | m, x, v :: vs => Memory.putBytes (Memory.put m x v) (x + 1) vs

/-- Every listed address is at least `lo`, and the addresses rise strictly. -/
def Memory.risingFrom : Nat → Memory → Bool
  | _, [] => true
  | lo, (a, _) :: m => decide (lo ≤ a) && Memory.risingFrom (a + 1) m

/-- The canonical form of a memory: addresses strictly rising. What an unlisted address reads as is no value (log entry 8),
so no entry can equal it. -/
def Memory.wf (m : Memory) : Bool := Memory.risingFrom 0 m

/-- Every listed address exists in a memory of `size` bytes. -/
def Memory.within (m : Memory) (size : Nat) : Bool := m.all fun c => decide (c.1 < size)

/-- The one definition of what an unlisted address reads as: the free power-on byte (R121, R122; log entry 8). -/
def byteAt (space : MemSpace) (m : Memory) (x : Nat) : Byte :=
  (Memory.cellAt m x).getD (Config.powerOnByte space x)

/-- One byte of the pending buffer. -/
def pendingByte (s : State) (x : Nat) : Byte := byteAt .pendingBuffer s.pendingBuffer x

/-- One byte of the reassembly buffer. -/
def reassemblyByte (s : State) (x : Nat) : Byte := byteAt .reassemblyBuffer s.reassemblyBuffer x

/-- R7: `MemRead(pendingBuffer, addr, n)`. A copy past the end is never started (R34): it faults (log entry 16). -/
def readPending (s : State) (x n : Nat) : Except Fault (List Byte) :=
  if x + n ≤ s.params.pendingSize then .ok ((List.range n).map fun i => pendingByte s (x + i))
  else .error (.outsideMemory .pendingBuffer x n)

/-- R100: the whole of the reassembly buffer, lowest address first. -/
def snapshot (s : State) : List Byte := (List.range s.params.maxBufferSize).map (reassemblyByte s)

/-! ### Named updates -/

/-- Writes both transmit length registers. -/
def State.setTx (s : State) (total offset : Len) : State := { s with txTotalLen := total, txSentOffset := offset }

/-- Replaces the contents of the pending buffer. -/
def State.setPending (s : State) (m : Memory) : State := { s with pendingBuffer := m }

/-- Writes `rxReceivedLen`. -/
def State.setRx (s : State) (len : Len) : State := { s with rxReceivedLen := len }

/-- Replaces the contents of the reassembly buffer. -/
def State.setReassembly (s : State) (m : Memory) : State := { s with reassemblyBuffer := m }

/-- Writes both handler registers. -/
def State.setHandler (s : State) (valid : Bool) (handler : Nat) : State :=
  { s with cbValid := valid, cbHandler := handler }

/-- Emits output events (R7, R93). -/
def State.emit (s : State) (events : List OutEvent) : State := { s with trace := s.trace ++ events }

/-- Puts an outcome on the OUTCOME port (R105). -/
def State.report (s : State) (o : OpOutcome) : State := { s with outcomes := s.outcomes ++ [o] }

/-- Uses up the link's answer to one write. -/
def State.useAnswer (s : State) : State :=
  { s with linkAnswers := s.linkAnswers.tail, linkWrites := s.linkWrites + 1 }

/-- Replaces the frames the link holds. -/
def State.setInbound (s : State) (frames : List Frame) : State := { s with inbound := frames }

/-- Replaces what the environment does next. -/
def State.setInputs (s : State) (inputs : List HostInput) : State := { s with inputs := inputs }

/-! ### Stores -/

/-- R7: `MemWrite(pendingBuffer, 0, …)`. -/
def storePending (s : State) (bytes : List Byte) : State :=
  s.setPending (Memory.putBytes s.pendingBuffer 0 bytes)

/-- R7: `MemWrite(reassemblyBuffer, addr, …)`. -/
def storeReassembly (s : State) (x : Nat) (bytes : List Byte) : State :=
  s.setReassembly (Memory.putBytes s.reassemblyBuffer x bytes)

/-! ### Causes and completion -/

/-- R7, R114: `raise` of a cause that ends its operation with the state as it stands. -/
def raiseCause (c : Cause) (s : State) : State × Report := (s, ⟨c, false⟩)

/-- The end of an operation that raises nothing. -/
def endNormally (s : State) : State × Report := (s, ⟨.none, false⟩)

/-- R85: `complete()`. -/
def complete (s : State) : State :=
  (if s.cbValid then s.emit [.done s.cbHandler s.rxReceivedLen (snapshot s)] else s).setRx 0

/-- R83, R84: the `L` test that ends the handling of a packet, whatever cause was raised before it. -/
def endPacket (isLast : Bool) (c : Cause) (s : State) : State × Report :=
  if isLast then (complete s, ⟨c, true⟩) else (s, ⟨c, false⟩)

/-- Ends an operation with one report. -/
def finish (r : State × Report) : Host.Outcome State Fault Refusal := .next (r.1.report (.single r.2))

/-! ### The link -/

/-- The link's answer to the write now being made (R95): the environment's, or a free value (log entry 5). -/
def linkAnswer (s : State) : Bool :=
  match s.linkAnswers with
  | [] => Config.linkAnswer s.linkWrites
  | ok :: _ => ok

/-- R96: `LinkSend(frame)`; the state after it. The answer is `linkAnswer` of the state before it. -/
def linkSend (frame : Frame) (s : State) : State :=
  (s.emit [.linkStop, .linkWrite frame, .linkResume]).useAnswer

/-- R97: `poll(inbound)`, the last frame the link holds. -/
def pollFrame (inbound : List Frame) : Option Frame := inbound.getLast?

/-! ### Inputs that are not operations -/

/-- R120, R121: reset asserted between operations. It writes neither memory nor `cbHandler` (R29); what it
leaves of the model's own fields is DEDUCED (log entry 13). -/
def assertReset (s : State) : State :=
  { s with txTotalLen := 0, txSentOffset := 0, rxReceivedLen := 0, cbValid := false }

/-- The link receives a frame. -/
def receiveOnLink (f : Frame) (s : State) : State := s.setInbound (s.inbound ++ [f])

/-- What the block does with a transaction that names no instruction: R57, R102 for a reserved operation code, R82 for a
malformed frame; a truncated command is refused (log entry 4). -/
def rejectWord (e : DecodeError) (s : State) : Host.Outcome State Fault Refusal :=
  match e with
  | .malformedFrame _ => finish (raiseCause .malformedFrame s)
  | .reservedOpcode => finish (raiseCause .illegalCommand s)
  | .truncatedCommand => .refused .truncatedCommand

end Sys2Proof.Machine
end

