-- ==== Sys2Proof/Machine/Receive.lean ====
section
/-! DEFINITION. The reception reassembler (spec 42_receive.md): `onPacketReceived` (R82), the handling of INIT (R83) and DATA
(R84) packets, and the four packet kinds as instructions (00_scope.md R9). -/

namespace Sys2Proof.Machine

/-- R83: `handleInit(p)`. -/
def handleInit (isLast : Bool) (dataLen : Byte) (payload : List Byte) (s : State) : State × Report :=
  if rxState s = .receiving then endPacket isLast .concurrentTransferRejected s
  else if dataLen.toNat ≤ s.params.maxBufferSize then
    endPacket isLast .none ((storeReassembly s 0 (payload.take dataLen.toNat)).setRx (zext16 dataLen))
  else endPacket isLast .bufferOverflow s

/-- R84: `handleData(p)`. -/
def handleData (isLast : Bool) (fragmentIndex dataLen : Byte) (payload : List Byte) (s : State) : State × Report :=
  if fragmentFits s.params fragmentIndex dataLen then
    endPacket isLast .none
      ((storeReassembly s (fragmentOffset s.params fragmentIndex.toNat) (payload.take dataLen.toNat)).setRx
        (satAdd16 s.rxReceivedLen dataLen))
  else endPacket isLast .bufferOverflow s

/-- R82, after the decoding: the integrity gate, then the handler of the packet's type. -/
def receivePacket (p : Packet) (s : State) : State × Report :=
  if packetValid p then
    match p with
    | .init isLast _ _ _ dataLen payload => handleInit isLast dataLen payload s
    | .data isLast _ fragmentIndex dataLen payload => handleData isLast fragmentIndex dataLen payload s
  else raiseCause .checksumMismatch s

/-- R82. -/
def receiveFrame (f : Frame) (s : State) : State × Report :=
  match decodeFrame s.params f with
  | .error _ => raiseCause .malformedFrame s
  | .ok p => receivePacket p s

/-- `INIT` (R82, R83). -/
def execInit (checksum : Byte) (address : Address) (port : Port) (dataLen : Byte) (payload : List Byte) (s : State) :
    Host.Outcome State Fault Refusal :=
  finish (receivePacket (.init false checksum address port dataLen payload) s)

/-- `INIT.L` (R82, R83, R85). -/
def execInitL (checksum : Byte) (address : Address) (port : Port) (dataLen : Byte) (payload : List Byte) (s : State) :
    Host.Outcome State Fault Refusal :=
  finish (receivePacket (.init true checksum address port dataLen payload) s)

/-- `DATA` (R82, R84). -/
def execData (checksum fragmentIndex dataLen : Byte) (payload : List Byte) (s : State) :
    Host.Outcome State Fault Refusal :=
  finish (receivePacket (.data false checksum fragmentIndex dataLen payload) s)

/-- `DATA.L` (R82, R84, R85). -/
def execDataL (checksum fragmentIndex dataLen : Byte) (payload : List Byte) (s : State) :
    Host.Outcome State Fault Refusal :=
  finish (receivePacket (.data true checksum fragmentIndex dataLen payload) s)

/-- `onPacketReceived` (R82). -/
def execOnPacketReceived (rawBytes : Frame) (s : State) : Host.Outcome State Fault Refusal :=
  finish (receiveFrame rawBytes s)

end Sys2Proof.Machine
end

