-- ==== Sys2Proof/Machine/Transmit.lean ====
section
/-! DEFINITION. The transmission state machine (spec 41_transmit.md): `sendMessage` (R73) and `pumpPendingFragment` (R75). -/

namespace Sys2Proof.Machine

/-- What a transmit operation does after its write, by the link's answer: R77, R110 on failure, `onSuccess` otherwise. -/
def afterWrite (ok : Bool) (onSuccess : State → State) (s : State) : State × Report :=
  if ok then endNormally (onSuccess s) else raiseCause .transmitFailure (s.setTx 0 0)

/-- R73: the session a message of more than INIT_CAPACITY bytes creates, before the write (DESIGN CHOICE, log entry 21). -/
def createSession (size : Len) (payload : List Byte) (s : State) : State :=
  if size.toNat ≤ s.params.initCapacity then s
  else
    (storePending s (messageRest s.params size payload)).setTx
      (BitVec.ofNat 16 (size.toNat - s.params.initCapacity)) 0

/-- R73. -/
def sendMessage (address : Address) (port : Port) (size : Len) (payload : List Byte) (s : State) : State × Report :=
  if txActive s then raiseCause .txBusy s
  else if s.params.maxBufferSize < size.toNat then raiseCause .txSize s
  else
    afterWrite (linkAnswer s) id
      (linkSend (encodePacket (sealPacket (messageInit s.params address port size payload)))
        (createSession size payload s))

/-- R75: the packet of the next fragment, before it is sealed, with the bytes read for it. -/
def nextPacket (s : State) (bytes : List Byte) : Packet :=
  .data (nextIsLast s) 0 (BitVec.ofNat 8 (nextIndex s)) (BitVec.ofNat 8 (nextLength s)) bytes

/-- R75: the length registers after a fragment that was sent. -/
def advance (total offset : Len) (isLast : Bool) (n : Nat) (s : State) : State :=
  if isLast then s.setTx 0 0 else s.setTx total (BitVec.ofNat 16 (offset.toNat + n))

/-- R75. -/
def pumpFragment (s : State) : Except Fault (State × Report) :=
  if txActive s then
    match readPending s s.txSentOffset.toNat (nextLength s) with
    | .error e => .error e
    | .ok bytes =>
      .ok (afterWrite (linkAnswer s) (advance s.txTotalLen s.txSentOffset (nextIsLast s) (nextLength s))
        (linkSend (encodePacket (sealPacket (nextPacket s bytes))) s))
  else .ok (endNormally s)

/-- `sendMessage` (R73). -/
def execSendMessage (address : Address) (port : Port) (size : Len) (payload : List Byte) (s : State) :
    Host.Outcome State Fault Refusal :=
  finish (sendMessage address port size payload s)

/-- `pumpPendingFragment` (R75). -/
def execPumpPendingFragment (s : State) : Host.Outcome State Fault Refusal :=
  match pumpFragment s with
  | .error e => .fault e
  | .ok r => finish r

end Sys2Proof.Machine
end

