-- ==== Sys2Proof/Machine/HostLink.lean ====
section
/-! DEFINITION. The host and link boundary (spec 43_host_and_link.md): `setCompletionHandler` (R98) and `tick` (R99). -/

namespace Sys2Proof.Machine

/-- `setCompletionHandler` (R98). The register keeps the `HANDLER_W` low bits of its operand (log entry 10). -/
def execSetCompletionHandler (handler : Nat) (s : State) : Host.Outcome State Fault Refusal :=
  finish (endNormally (s.setHandler true (handler % 2 ^ s.params.handlerW)))

/-- R99, the second half of `tick`: one poll, which empties the link's queue (R97), and at most one `onPacketReceived`. -/
def pollAndReceive (s : State) : State × Report :=
  match pollFrame s.inbound with
  | none => endNormally (s.setInbound [])
  | some f => receiveFrame f (s.setInbound [])

/-- R99, the first half of `tick`: one pump, if a Transmit Session exists. -/
def pumpIfActive (s : State) : Except Fault (State × Report) :=
  if txActive s then pumpFragment s else .ok (endNormally s)

/-- `tick` (R99); its outcome is the pair of its halves' outcomes (R105). -/
def execTick (s : State) : Host.Outcome State Fault Refusal :=
  match pumpIfActive s with
  | .error e => .fault e
  | .ok pump =>
    .next ((pollAndReceive pump.1).1.report (.tick pump.2 (pollAndReceive pump.1).2))

end Sys2Proof.Machine
end

