-- ==== Sys2Proof/Machine/Dispatch.lean ====
section
/-! DEFINITION. One arm per instruction, each one call of its meaning. -/

namespace Sys2Proof.Machine

def exec (i : Instr) (s : State) : Host.Outcome State Fault Refusal :=
  match i with
  | .init checksum address port dataLen payload => Sys2Proof.Machine.execInit checksum address port dataLen payload s
  | .initL checksum address port dataLen payload => Sys2Proof.Machine.execInitL checksum address port dataLen payload s
  | .data checksum fragmentIndex dataLen payload => Sys2Proof.Machine.execData checksum fragmentIndex dataLen payload s
  | .dataL checksum fragmentIndex dataLen payload => Sys2Proof.Machine.execDataL checksum fragmentIndex dataLen payload s
  | .sendMessage address port size payload => Sys2Proof.Machine.execSendMessage address port size payload s
  | .pumpPendingFragment => Sys2Proof.Machine.execPumpPendingFragment s
  | .onPacketReceived rawBytes => Sys2Proof.Machine.execOnPacketReceived rawBytes s
  | .setCompletionHandler handler => Sys2Proof.Machine.execSetCompletionHandler handler s
  | .tick => Sys2Proof.Machine.execTick s

end Sys2Proof.Machine
end

