-- ==== Sys2Proof/Machine/Fetch.lean ====
section
/-! DEFINITION. What the block does with the next thing its environment gives it (spec 00_scope.md R8; 43_host_and_link.md R94;
70_reset_and_hazards.md R120). -/

namespace Sys2Proof.Machine

/-- Runs the instruction a transaction names, or rejects the transaction. -/
def runWord (w : InstrWord) (s : State) : Host.Outcome State Fault Refusal :=
  match decode s.params w with
  | .ok i => exec i s
  | .error e => rejectWord e s

/-- One thing the environment does, with the inputs after it already in place. -/
def takeInput (input : HostInput) (s : State) : Host.Outcome State Fault Refusal :=
  match input with
  | .reset => .next (assertReset s)
  | .frameArrives f => .next (receiveOnLink f s)
  | .word w => runWord w s

/-- The inputs with an opcode-table word as the next transaction. -/
def inputsWithTableWord (s : State) (nbits w : Nat) : List HostInput :=
  .word (tableWord s.params nbits w) :: s.inputs

end Sys2Proof.Machine
end

