-- ==== Sys2Proof/Machine/Step.lean ====
section
/-! DEFINITION. One step: the block takes the next thing its environment does (spec 00_scope.md R1, R8; 43_host_and_link.md
R94). With nothing to take it stays as it is (log entry 12). -/

namespace Sys2Proof.Machine

def step (s : State) : Host.Outcome State Fault Refusal :=
  match s.inputs with
  | [] => .next s
  | input :: rest => takeInput input (s.setInputs rest)

/-- The state with an opcode-table word as the next transaction its host gives (log entries 14, 15). -/
def State.withFetchWord (s : State) (nbits w : Nat) : State :=
  s.setInputs (inputsWithTableWord s nbits w)

end Sys2Proof.Machine
end

