-- ==== Sys2Proof/Safety.lean ====
section
/-! DEFINITION. What a good state and a good run are, in the terms the statements use: the invariant (spec 10_state.md R26),
which parts of a state an operation leaves alone (R28, R29), runs of operations, and the fragments of a message
(41_transmit.md R74). -/

namespace Sys2Proof.Machine

/-! ### The invariant -/

/-- The invariant: R26 I1 to I4 (I5 is the width of `rxReceivedLen`), a legal parameter set (R4), memories in canonical form
that list no address that does not exist (R21, R22), and a handler identifier of `HANDLER_W` bits (R20). -/
structure State.Inv (s : State) : Prop where
  legal : s.params.Legal
  totalBound : s.txTotalLen.toNat ≤ s.params.pendingSize
  idleOffset : s.txTotalLen = 0 → s.txSentOffset = 0
  offsetBound : s.txTotalLen ≠ 0 → s.txSentOffset.toNat < s.txTotalLen.toNat
  offsetAligned : s.txSentOffset.toNat % s.params.dataCapacity = 0
  pendingWf : Memory.wf s.pendingBuffer = true
  pendingWithin : Memory.within s.pendingBuffer s.params.pendingSize = true
  reassemblyWf : Memory.wf s.reassemblyBuffer = true
  reassemblyWithin : Memory.within s.reassemblyBuffer s.params.maxBufferSize = true
  handlerBound : s.cbHandler < 2 ^ s.params.handlerW

/-- R122: every byte of the pending buffer that belongs to the session has been written. -/
def PendingWritten (s : State) : Prop :=
  ∀ x, x < s.txTotalLen.toNat → (Memory.cellAt s.pendingBuffer x).isSome = true

/-! ### What stays as it is (R28, R29) -/

/-- The transmit length registers and every byte of the pending buffer. -/
def SameTransmit (s t : State) : Prop :=
  t.txTotalLen = s.txTotalLen ∧ t.txSentOffset = s.txSentOffset ∧ ∀ x, pendingByte t x = pendingByte s x

/-- The receive length register and every byte of the reassembly buffer. -/
def SameReceive (s t : State) : Prop :=
  t.rxReceivedLen = s.rxReceivedLen ∧ ∀ x, reassemblyByte t x = reassemblyByte s x

/-- Both handler registers. -/
def SameHandler (s t : State) : Prop := t.cbValid = s.cbValid ∧ t.cbHandler = s.cbHandler

/-- The parameters and the host's coming inputs. -/
def SameHost (s t : State) : Prop := t.params = s.params ∧ t.inputs = s.inputs

/-- The link's side: its coming answers, how many it gave, and the frames it holds. -/
def SameLink (s t : State) : Prop :=
  t.linkAnswers = s.linkAnswers ∧ t.linkWrites = s.linkWrites ∧ t.inbound = s.inbound

/-- One write was answered (R96), and the link holds the same frames. -/
def OneAnswerUsed (s t : State) : Prop :=
  t.linkAnswers = s.linkAnswers.tail ∧ t.linkWrites = s.linkWrites + 1 ∧ t.inbound = s.inbound

/-- The seven items of R13, the parameters, the host's inputs and the link: all but the two outputs. -/
def SameBlock (s t : State) : Prop :=
  SameTransmit s t ∧ SameReceive s t ∧ SameHandler s t ∧ SameHost s t ∧ SameLink s t

/-- The operation emitted exactly these events and reported exactly this. -/
def Outputs (s t : State) (events : List OutEvent) (r : Report) : Prop :=
  t.trace = s.trace ++ events ∧ t.outcomes = s.outcomes ++ [.single r]

/-- `s` with the receive half of `r` (R28). -/
def withReceiveHalf (r s : State) : State :=
  { s with
    rxReceivedLen := r.rxReceivedLen, reassemblyBuffer := r.reassemblyBuffer,
    cbValid := r.cbValid, cbHandler := r.cbHandler }

/-- `s` with the transmit half of `r` (R28). -/
def withTransmitHalf (r s : State) : State :=
  { s with txTotalLen := r.txTotalLen, txSentOffset := r.txSentOffset, pendingBuffer := r.pendingBuffer }

/-- A function of states, on the next states of outcomes. -/
def mapNext (g : State → State) : Host.Outcome State Fault Refusal → Host.Outcome State Fault Refusal
  | .next t => .next (g t)
  | .fault e => .fault e
  | .refused r => .refused r

/-! ### Events -/

/-- The three events of one `LinkSend` (R96). -/
def sendEvents (f : Frame) : List OutEvent := [.linkStop, .linkWrite f, .linkResume]

/-- What `complete` emits in a state: one `Done`, or nothing if no handler is registered (R85). -/
def doneEvents (s : State) (length : Len) (snap : List Byte) : List OutEvent :=
  if s.cbValid then [.done s.cbHandler length snap] else []

/-- The last-fragment flag of a packet. -/
def packetIsLast : Packet → Bool
  | .init isLast _ _ _ _ _ => isLast
  | .data isLast _ _ _ _ => isLast

/-- The number of bytes a packet occupies in its frame (R52). -/
def packetLength : Packet → Nat
  | .init _ _ _ _ dataLen _ => initHeaderSize + dataLen.toNat
  | .data _ _ _ dataLen _ => dataHeaderSize + dataLen.toNat

/-- R54: one of M1 to M5 holds of a frame, said by the positions of its bytes. -/
def Malformed (P : Params) (f : Frame) : Prop :=
  f.length < 1 ∨ (f.getD 0 0).extractLsb' 2 6 ≠ 0 ∨
  ((f.getD 0 0).getLsbD 0 = false ∧
    (f.length < 9 ∨ P.initCapacity < (f.getD 8 0).toNat ∨ f.length < 9 + (f.getD 8 0).toNat)) ∨
  ((f.getD 0 0).getLsbD 0 = true ∧
    (f.length < 4 ∨ P.dataCapacity < (f.getD 3 0).toNat ∨ f.length < 4 + (f.getD 3 0).toNat))

/-- The frame decodes, passes the integrity gate and is marked last (R92). -/
def Completing (P : Params) (f : Frame) : Prop :=
  ∃ p, decodeFrame P f = .ok p ∧ packetValid p = true ∧ packetIsLast p = true

/-- R86, the column `len` before the `L` test: the running count after a packet that passed the gate. -/
def countAfter (s : State) : Packet → Len
  | .init _ _ _ _ dataLen _ => if s.rxReceivedLen ≠ 0 then s.rxReceivedLen else zext16 dataLen
  | .data _ _ fragmentIndex dataLen _ =>
    if fragmentOffset s.params fragmentIndex.toNat + dataLen.toNat ≤ s.params.maxBufferSize then
      satAdd16 s.rxReceivedLen dataLen
    else s.rxReceivedLen

/-- R86, the column `cause`, for a packet that passed the gate. -/
def causeOf (s : State) : Packet → Cause
  | .init _ _ _ _ _ _ => if s.rxReceivedLen ≠ 0 then .concurrentTransferRejected else .none
  | .data _ _ fragmentIndex dataLen _ =>
    if fragmentOffset s.params fragmentIndex.toNat + dataLen.toNat ≤ s.params.maxBufferSize then .none
    else .bufferOverflow

/-! ### Runs and messages -/

/-- Operations one after the other, stopping at the first that does not answer a next state. -/
def execList : List Instr → State → Host.Outcome State Fault Refusal
  | [], s => .next s
  | i :: is, s =>
    match exec i s with
    | .next t => execList is t
    | .fault e => .fault e
    | .refused r => .refused r

/-- `ceil(n / d)` (R74). -/
def ceilDiv (n d : Nat) : Nat := (n + d - 1) / d

/-- R74: the bytes of DATA fragment `k` of a message. -/
def messageChunk (P : Params) (payload : List Byte) (k : Nat) : List Byte :=
  ((payload.drop P.initCapacity).drop (k * P.dataCapacity)).take P.dataCapacity

/-- R74, R76: `K`, the number of DATA fragments of a message. -/
def messageFragments (P : Params) (payload : List Byte) : Nat :=
  ceilDiv (payload.length - P.initCapacity) P.dataCapacity

/-- R74: DATA packet `k` of a message, before it is sealed. -/
def messageData (P : Params) (payload : List Byte) (k : Nat) : Packet :=
  .data (k + 1 == messageFragments P payload) 0 (BitVec.ofNat 8 k)
    (BitVec.ofNat 8 (messageChunk P payload k).length) (messageChunk P payload k)

/-- R74: the packets of a message, in order, before they are sealed. -/
def messagePackets (P : Params) (address : Address) (port : Port) (payload : List Byte) : List Packet :=
  if payload.length ≤ P.initCapacity then
    [.init true 0 address port (BitVec.ofNat 8 payload.length) payload]
  else
    .init false 0 address port (BitVec.ofNat 8 P.initCapacity) (payload.take P.initCapacity)
      :: (List.range (messageFragments P payload)).map (messageData P payload)

/-- R74: the frames of a message, in order. -/
def messageFrames (P : Params) (address : Address) (port : Port) (payload : List Byte) : List Frame :=
  (messagePackets P address port payload).map fun p => encodePacket (sealPacket p)

/-- The operations that send a whole message (R76). -/
def messageOperations (P : Params) (address : Address) (port : Port) (size : Len) (payload : List Byte) : List Instr :=
  .sendMessage address port size payload :: List.replicate (messageFragments P payload) .pumpPendingFragment

end Sys2Proof.Machine
end

