-- ==== Sys2Proof/Certificates/Slice0/Obligations.lean ====
section
/-! DEFINITION. The statements about the model. Each docstring names the rules of spec/ it comes from. -/

open Sys2Proof Sys2Proof.Machine

/-! ### Encoding -/

/-- R94, R8: the next transaction, if it names an instruction, is run by that instruction's meaning, with the transaction
taken off the inputs. R94 has COMMAND carry host operations only; that a frame is a transaction too, and runs its packet's
meaning, is DEDUCED from R9 (log entry 7). -/
def Obligations.StepRunsTheDecodedInstruction : Prop :=
  ∀ (s : State) (w : InstrWord) (rest : List HostInput) (i : Instr),
    s.inputs = .word w :: rest → decode s.params w = .ok i → step s = exec i (s.setInputs rest)

/-- R46 to R51, R56: words written out from the spec's encodings (the frames of V2, V5, V6 and V9) decode to what they stand
for. The operands of the two commands are laid out as log entry 2 says. -/
def Obligations.WordsWrittenFromTheSpecDecode : Prop :=
  decode Params.ref (.frame [0x02, 0x48, 0xC0, 0xA8, 0x00, 0x01, 0x1F, 0x90, 0x02, 0x48, 0x69]) =
      .ok (.initL 0x48 0xC0A80001 0x1F90 2 [0x48, 0x69]) ∧
  decode Params.ref (.frame [0x00, 0xFE, 0xFF, 0xFF, 0xFF, 0xFF, 0xFF, 0xFF, 0x01, 0xFF]) =
      .ok (.init 0xFE 0xFFFFFFFF 0xFFFF 1 [0xFF]) ∧
  decode Params.ref (.frame [0x01, 0xFC, 0x00, 0x02, 0xAA, 0x55]) = .ok (.data 0xFC 0 2 [0xAA, 0x55]) ∧
  decode Params.ref (.frame [0x03, 0x7D, 0xFF, 0x01, 0x80]) = .ok (.dataL 0x7D 0xFF 1 [0x80]) ∧
  decode Params.ref (.command [0x01, 0x0A, 0x00, 0x00, 0x01, 0x12, 0x34, 0x00, 0x01, 0x99]) =
      .ok (.sendMessage 0x0A000001 0x1234 1 [0x99]) ∧
  decode Params.ref (.command [0x04, 0x00, 0x0A, 0x11, 0xCE]) = .ok (.setCompletionHandler 0x000A11CE)

/-- R62, R67, R68, R56: decoding the encoding of a well-formed instruction gives that instruction, for every instruction,
operand and parameter set. -/
def Obligations.DecodeOfEncodeIsTheInstruction : Prop :=
  ∀ (P : Params) (i : Instr), i.wf P = true → decode P (encode P i) = .ok i

/-- R70: the three round-trip laws of packets. -/
def Obligations.PacketRoundTripLaws : Prop :=
  (∀ (P : Params) (p : Packet), p.wf P = true → decodeFrame P (encodePacket p) = .ok p) ∧
  (∀ (P : Params) (f : Frame) (p : Packet),
    decodeFrame P f = .ok p → encodePacket p = f.take (packetLength p)) ∧
  (∀ (P : Params) (p q : Packet), p.wf P = true → q.wf P = true → encodePacket p = encodePacket q → p = q)

/-- R68 with R54: decoding a frame, by the positions of its bytes, with the five checks in their order. -/
def Obligations.DecodeByBytePositions : Prop :=
  ∀ (P : Params) (f : Frame),
    decodeFrame P f =
      if f.length < 1 then .error .noFlagsByte
      else if (f.getD 0 0).extractLsb' 2 6 ≠ 0 then .error .reservedFlagsBit
      else if (f.getD 0 0).getLsbD 0 = false then
        if f.length < 9 then .error .shortHeader
        else if P.initCapacity < (f.getD 8 0).toNat then .error .dataLenAboveCapacity
        else if f.length < 9 + (f.getD 8 0).toNat then .error .truncatedPayload
        else .ok (.init ((f.getD 0 0).getLsbD 1) (f.getD 1 0)
          (BitVec.ofNat 32 ((f.getD 2 0).toNat * 2 ^ 24 + (f.getD 3 0).toNat * 2 ^ 16
            + (f.getD 4 0).toNat * 2 ^ 8 + (f.getD 5 0).toNat))
          (BitVec.ofNat 16 ((f.getD 6 0).toNat * 2 ^ 8 + (f.getD 7 0).toNat))
          (f.getD 8 0) ((f.drop 9).take (f.getD 8 0).toNat))
      else
        if f.length < 4 then .error .shortHeader
        else if P.dataCapacity < (f.getD 3 0).toNat then .error .dataLenAboveCapacity
        else if f.length < 4 + (f.getD 3 0).toNat then .error .truncatedPayload
        else .ok (.data ((f.getD 0 0).getLsbD 1) (f.getD 1 0) (f.getD 2 0) (f.getD 3 0)
          ((f.drop 4).take (f.getD 3 0).toNat))

/-- R60, R61: the decoder yields only well-formed packets, and the frame of a well-formed packet has exactly its length and
fits the link. -/
def Obligations.WellFormedPacketsFitTheLink : Prop :=
  (∀ (P : Params) (f : Frame) (p : Packet), decodeFrame P f = .ok p → p.wf P = true) ∧
  (∀ (P : Params) (p : Packet), P.Legal → p.wf P = true →
    (encodePacket p).length = packetLength p ∧ packetLength p ≤ P.linkMtu)

/-- R55: bytes after the packet change neither what a frame decodes to nor what processing it does. -/
def Obligations.TrailingBytesAreIgnored : Prop :=
  ∀ (s : State) (f extra : Frame) (p : Packet), decodeFrame s.params f = .ok p →
    decodeFrame s.params (f ++ extra) = .ok p ∧
    exec (.onPacketReceived (f ++ extra)) s = exec (.onPacketReceived f) s

/-- R57, R102: a command with a reserved operation code changes no state, emits nothing and reports `IllegalCommand`. That the
code is bits 2:0 of the first byte, and the other bits are ignored, is DEDUCED (log entry 3). -/
def Obligations.ReservedOperationCodesAreIgnored : Prop :=
  ∀ (s : State) (word : Byte) (operands : List Byte) (rest : List HostInput),
    s.inputs = .word (.command (word :: operands)) :: rest →
    ((word.extractLsb' 0 3).toNat = 0 ∨ (word.extractLsb' 0 3).toNat = 6 ∨ (word.extractLsb' 0 3).toNat = 7) →
    ∃ t, step s = .next t ∧ SameBlock (s.setInputs rest) t ∧ Outputs s t [] ⟨.illegalCommand, false⟩

/-! ### The checksum -/

/-- R65, the frame terms: the checksum folds every byte of the packet but byte 1 (DATA) or bytes 1, 6 and 7 (INIT). -/
def Obligations.ChecksumFoldsTheCoveredBytes : Prop :=
  (∀ (P : Params) (f : Frame) l c a q n d, decodeFrame P f = .ok (.init l c a q n d) →
    calcChecksum (.init l c a q n d) =
      xorFold 0 (f.take 1 ++ (f.drop 2).take 4 ++ (f.drop 8).take (1 + n.toNat))) ∧
  (∀ (P : Params) (f : Frame) l c k n d, decodeFrame P f = .ok (.data l c k n d) →
    calcChecksum (.data l c k n d) = xorFold 0 (f.take 1 ++ (f.drop 2).take (2 + n.toNat)))

/-- R66 item 2 and R69: flipping one covered bit flips the same bit of the checksum, and flipping one bit of the CHECKSUM
field of a valid packet makes it fail the gate. -/
def Obligations.OneCoveredBitFlipsOneChecksumBit : Prop :=
  (∀ l c a q n (d : List Byte) i j, i < n.toNat → i < d.length → j < 8 →
    calcChecksum (.init l c a q n (d.set i (d.getD i 0 ^^^ (1#8 <<< j)))) =
      calcChecksum (.init l c a q n d) ^^^ (1#8 <<< j)) ∧
  (∀ l c k n (d : List Byte) i j, i < n.toNat → i < d.length → j < 8 →
    calcChecksum (.data l c k n (d.set i (d.getD i 0 ^^^ (1#8 <<< j)))) =
      calcChecksum (.data l c k n d) ^^^ (1#8 <<< j)) ∧
  (∀ l c a q n d j, j < 32 →
    calcChecksum (.init l c (a ^^^ (1#32 <<< j)) q n d) = calcChecksum (.init l c a q n d) ^^^ (1#8 <<< (j % 8))) ∧
  (∀ l c k n d j, j < 8 →
    calcChecksum (.data l c (k ^^^ (1#8 <<< j)) n d) = calcChecksum (.data l c k n d) ^^^ (1#8 <<< j)) ∧
  (∀ l c a q n d, calcChecksum (.init (!l) c a q n d) = calcChecksum (.init l c a q n d) ^^^ 2#8) ∧
  (∀ l c k n d, calcChecksum (.data (!l) c k n d) = calcChecksum (.data l c k n d) ^^^ 2#8) ∧
  (∀ l c a q n d j, j < 8 → packetValid (.init l c a q n d) = true →
    packetValid (.init l (c ^^^ (1#8 <<< j)) a q n d) = false) ∧
  (∀ l c k n d j, j < 8 → packetValid (.data l c k n d) = true →
    packetValid (.data l (c ^^^ (1#8 <<< j)) k n d) = false)

/-- R66 item 3 (conflict C3): the checksum does not depend on the order of the payload bytes or of the address bytes. -/
def Obligations.ChecksumIgnoresByteOrder : Prop :=
  (∀ l c a q n (d d' : List Byte), d.Perm d' → d.length = n.toNat →
    calcChecksum (.init l c a q n d) = calcChecksum (.init l c a q n d')) ∧
  (∀ l c k n (d d' : List Byte), d.Perm d' → d.length = n.toNat →
    calcChecksum (.data l c k n d) = calcChecksum (.data l c k n d')) ∧
  (∀ l c q n d (b3 b2 b1 b0 c3 c2 c1 c0 : Byte), [b3, b2, b1, b0].Perm [c3, c2, c1, c0] →
    calcChecksum (.init l c (addressOfBytes b3 b2 b1 b0) q n d) =
      calcChecksum (.init l c (addressOfBytes c3 c2 c1 c0) q n d))

/-- R27, R66 item 4: what an INIT does depends on neither its port nor, if it passes the gate, its address. -/
def Obligations.AddressAndPortAreNotRetained : Prop :=
  (∀ c a q q' n d (s : State),
    exec (.init c a q n d) s = exec (.init c a q' n d) s ∧ exec (.initL c a q n d) s = exec (.initL c a q' n d) s) ∧
  (∀ c c' a a' q q' n d (s : State),
    packetValid (.init false c a q n d) = true → packetValid (.init false c' a' q' n d) = true →
    exec (.init c a q n d) s = exec (.init c' a' q' n d) s) ∧
  (∀ c c' a a' q q' n d (s : State),
    packetValid (.init true c a q n d) = true → packetValid (.init true c' a' q' n d) = true →
    exec (.initL c a q n d) s = exec (.initL c' a' q' n d) s)

/-! ### Reset and the invariant -/

/-- R121: what reset leaves, at power-on and when the reset input is asserted; reset does not write the memories. -/
def Obligations.ResetLeavesTheIdleState : Prop :=
  (State.reset.txTotalLen = 0 ∧ State.reset.txSentOffset = 0 ∧ State.reset.rxReceivedLen = 0 ∧
    State.reset.cbValid = false ∧ txActive State.reset = false ∧ rxState State.reset = .idle) ∧
  (∀ (s : State) (rest : List HostInput), s.inputs = .reset :: rest →
    ∃ t, step s = .next t ∧ t.txTotalLen = 0 ∧ t.txSentOffset = 0 ∧ t.rxReceivedLen = 0 ∧ t.cbValid = false ∧
      txActive t = false ∧ rxState t = .idle ∧
      (∀ x, pendingByte t x = pendingByte s x) ∧ (∀ x, reassemblyByte t x = reassemblyByte s x))

/-- What else the reset input leaves as it is: `cbHandler` (DEDUCED from R29's row for reset; R121 leaves its value unspecified),
the parameters (R3), and the model's own fields for the inputs after it, the link, the trace and the outcomes (log entry 13). -/
def Obligations.ResetTouchesNothingElse : Prop :=
  ∀ (s : State) (rest : List HostInput), s.inputs = .reset :: rest →
    ∃ t, step s = .next t ∧ t.cbHandler = s.cbHandler ∧ t.params = s.params ∧ t.inputs = rest ∧ SameLink s t ∧
      t.trace = s.trace ∧ t.outcomes = s.outcomes

/-- The invariant holds of the state after reset. -/
def Obligations.ResetMeetsTheInvariant : Prop := State.reset.Inv ∧ PendingWritten State.reset

/-- R26 (I1 to I4), with the canonical form of both memories and their bounds: every step keeps the invariant. -/
def Obligations.EveryStepKeepsTheInvariant : Prop :=
  ∀ s t : State, s.Inv → step s = .next t → t.Inv

/-- R122: the bytes of a session have all been written, and every step keeps it so: what `pendingBuffer` held before its
first write is never read. -/
def Obligations.SessionBytesAreAlwaysWritten : Prop :=
  ∀ s t : State, s.Inv → PendingWritten s → step s = .next t → PendingWritten t

/-- R122, R38: `pumpPendingFragment` depends on no byte of the pending buffer beyond the session's. -/
def Obligations.PumpDependsOnlyOnSessionBytes : Prop :=
  ∀ (s : State) (m : Memory), s.Inv →
    (∀ x, x < s.txTotalLen.toNat → byteAt .pendingBuffer m x = pendingByte s x) →
    exec .pumpPendingFragment (s.setPending m) =
      mapNext (fun t => t.setPending m) (exec .pumpPendingFragment s)

/-- R1, R34 with log entries 4 and 16: from a state that meets the invariant a step answers a next state, but for a
command transaction that ends before its operands do. -/
def Obligations.OnlyTruncatedCommandsStop : Prop :=
  ∀ s : State, s.Inv →
    (∃ t, step s = .next t) ∨
    (∃ bytes rest, s.inputs = .word (.command bytes) :: rest ∧
      decodeCommand s.params bytes = .error .truncatedCommand ∧ step s = .refused .truncatedCommand)

/-- R67, R69, R61, R72: every frame a step writes on the link fits it, and a peer with the same capacities decodes it to a
well-formed packet that passes the integrity gate. -/
def Obligations.EveryFrameWrittenPassesThePeersGate : Prop :=
  ∀ (s t : State) (events : List OutEvent) (f : Frame) (P : Params), s.Inv →
    step s = .next t → t.trace = s.trace ++ events → .linkWrite f ∈ events →
    P.initCapacity = s.params.initCapacity → P.dataCapacity = s.params.dataCapacity →
    f.length ≤ s.params.linkMtu ∧
    ∃ p, p.wf P = true ∧ packetValid p = true ∧ f = encodePacket p ∧ decodeFrame P f = .ok p

/-! ### Who touches what -/

/-- R29: an operation touches no state beyond its row of the access table. -/
def Obligations.OperationsTouchOnlyTheirRow : Prop :=
  (∀ (s t : State) a q n d, exec (.sendMessage a q n d) s = .next t →
    SameReceive s t ∧ SameHandler s t ∧ SameHost s t ∧ t.inbound = s.inbound) ∧
  (∀ s t : State, exec .pumpPendingFragment s = .next t →
    (∀ x, pendingByte t x = pendingByte s x) ∧ SameReceive s t ∧ SameHandler s t ∧ SameHost s t ∧
      t.inbound = s.inbound) ∧
  (∀ (s t : State) (p : Packet), exec p.toInstr s = .next t →
    SameTransmit s t ∧ SameHandler s t ∧ SameHost s t ∧ SameLink s t) ∧
  (∀ (s t : State) (f : Frame), exec (.onPacketReceived f) s = .next t →
    SameTransmit s t ∧ SameHandler s t ∧ SameHost s t ∧ SameLink s t) ∧
  (∀ (s t : State) (h : Nat), exec (.setCompletionHandler h) s = .next t →
    SameTransmit s t ∧ SameReceive s t ∧ SameHost s t ∧ SameLink s t) ∧
  (∀ s t : State, exec .tick s = .next t →
    (∀ x, pendingByte t x = pendingByte s x) ∧ SameHandler s t ∧ SameHost s t)

/-- R28: no operation reads one half of the state to decide what it writes in the other. -/
def Obligations.TransmitAndReceiveHalvesAreDisjoint : Prop :=
  (∀ (r s : State) a q n d,
    exec (.sendMessage a q n d) (withReceiveHalf r s) = mapNext (withReceiveHalf r) (exec (.sendMessage a q n d) s)) ∧
  (∀ r s : State,
    exec .pumpPendingFragment (withReceiveHalf r s) = mapNext (withReceiveHalf r) (exec .pumpPendingFragment s)) ∧
  (∀ (r s : State) (p : Packet),
    exec p.toInstr (withTransmitHalf r s) = mapNext (withTransmitHalf r) (exec p.toInstr s)) ∧
  (∀ (r s : State) (f : Frame),
    exec (.onPacketReceived f) (withTransmitHalf r s) = mapNext (withTransmitHalf r) (exec (.onPacketReceived f) s)) ∧
  (∀ (r s : State) (h : Nat),
    exec (.setCompletionHandler h) (withTransmitHalf r s) =
      mapNext (withTransmitHalf r) (exec (.setCompletionHandler h) s)) ∧
  (∀ r s t t' : State, exec .tick s = .next t → exec .tick (withReceiveHalf r s) = .next t' →
    t'.txTotalLen = t.txTotalLen ∧ t'.txSentOffset = t.txSentOffset ∧ t'.pendingBuffer = t.pendingBuffer) ∧
  (∀ r s t t' : State, exec .tick s = .next t → exec .tick (withTransmitHalf r s) = .next t' →
    t'.rxReceivedLen = t.rxReceivedLen ∧ t'.reassemblyBuffer = t.reassemblyBuffer ∧
      t'.cbValid = t.cbValid ∧ t'.cbHandler = t.cbHandler)

/-- R20, R122: while `cbValid` is 0, what `cbHandler` holds changes nothing else that any operation does. So no claim rests
on the value log entry 9 names. -/
def Obligations.HandlerIsUnobservableUntilRegistered : Prop :=
  ∀ (i : Instr) (s : State) (h : Nat), s.cbValid = false → (∀ k, i ≠ .setCompletionHandler k) →
    exec i { s with cbHandler := h } = mapNext (fun t => { t with cbHandler := h }) (exec i s)

/-- R20, R3: only reset clears `cbValid`, only `setCompletionHandler` writes `cbHandler`, and nothing changes a parameter. That
reset too leaves `cbHandler` as it is, is DEDUCED from R29's row for reset (log entry 13): R20 and R121 leave its value after
reset unspecified. -/
def Obligations.HandlerAndParametersPersist : Prop :=
  ∀ s t : State, step s = .next t →
    t.params = s.params ∧
    (s.cbValid = true → t.cbValid = false → ∃ rest, s.inputs = .reset :: rest) ∧
    (t.cbHandler ≠ s.cbHandler → ∃ w rest h,
      s.inputs = .word w :: rest ∧ decode s.params w = .ok (.setCompletionHandler h))

/-- R93, R100, R116, R105: the traces an operation can produce, a `Done` only with a handler registered and with the
buffer as the operation leaves it, and exactly one outcome. -/
def Obligations.TracesAndOutcomesOfOperations : Prop :=
  ∀ (i : Instr) (s t : State), exec i s = .next t →
    ∃ tx rx, t.trace = s.trace ++ tx ++ rx ∧
      (tx = [] ∨ ((∃ a q n d, i = .sendMessage a q n d) ∨ i = .pumpPendingFragment ∨ i = .tick) ∧
        ∃ f, tx = sendEvents f) ∧
      (rx = [] ∨ ((∃ p : Packet, i = p.toInstr) ∨ (∃ f, i = .onPacketReceived f) ∨ i = .tick) ∧
        s.cbValid = true ∧ ∃ len, rx = [.done s.cbHandler len (snapshot t)]) ∧
      (if i = .tick then ∃ r r', t.outcomes = s.outcomes ++ [.tick r r']
        else ∃ r, t.outcomes = s.outcomes ++ [.single r])

/-- R106: the codes of the causes. -/
def Obligations.CauseCodesAreTheTable : Prop :=
  causeCode .none = 0 ∧ causeCode .checksumMismatch = 1 ∧ causeCode .bufferOverflow = 2 ∧
  causeCode .concurrentTransferRejected = 3 ∧ causeCode .transmitFailure = 4 ∧ causeCode .malformedFrame = 5 ∧
  causeCode .txBusy = 6 ∧ causeCode .txSize = 7 ∧ causeCode .illegalCommand = 8 ∧
  ∀ c c', causeCode c = causeCode c' → c = c'

/-! ### Sending -/

/-- R73, a message that fits one packet: one INIT frame marked last, no session, and nothing else changes, whatever the
link answers. -/
def Obligations.SendMessageInOnePacket : Prop :=
  ∀ (s : State) a q (size : Len) (d : List Byte), s.Inv → s.txTotalLen = 0 → d.length = size.toNat →
    size.toNat ≤ s.params.initCapacity →
    ∃ t, exec (.sendMessage a q size d) s = .next t ∧
      SameTransmit s t ∧ SameReceive s t ∧ SameHandler s t ∧ SameHost s t ∧ OneAnswerUsed s t ∧
      Outputs s t (sendEvents (encodePacket (sealPacket (.init true 0 a q (BitVec.ofNat 8 size.toNat) d))))
        ⟨if linkAnswer s = true then .none else .transmitFailure, false⟩

/-- R73, a message of more than INIT_CAPACITY bytes: one INIT frame that is not marked last; the rest of the payload is kept
as a session if the write succeeds, and there is no session if it fails. That `pendingBuffer` holds the rest after a failed
write too is the model's choice (log entry 21): R73 allows creating the session only on success. -/
def Obligations.SendMessageOpensASession : Prop :=
  ∀ (s : State) a q (size : Len) (d : List Byte), s.Inv → s.txTotalLen = 0 → d.length = size.toNat →
    s.params.initCapacity < size.toNat → size.toNat ≤ s.params.maxBufferSize →
    ∃ t, exec (.sendMessage a q size d) s = .next t ∧
      (if linkAnswer s = true then t.txTotalLen.toNat = size.toNat - s.params.initCapacity else t.txTotalLen = 0) ∧
      t.txSentOffset = 0 ∧ txActive t = linkAnswer s ∧
      (∀ x, x < size.toNat - s.params.initCapacity → pendingByte t x = d.getD (s.params.initCapacity + x) 0) ∧
      (∀ x, size.toNat - s.params.initCapacity ≤ x → pendingByte t x = pendingByte s x) ∧
      SameReceive s t ∧ SameHandler s t ∧ SameHost s t ∧ OneAnswerUsed s t ∧
      Outputs s t
        (sendEvents (encodePacket (sealPacket
          (.init false 0 a q (BitVec.ofNat 8 s.params.initCapacity) (d.take s.params.initCapacity)))))
        ⟨if linkAnswer s = true then .none else .transmitFailure, false⟩

/-- R112, with the order of R113: the three refusals of a command have no effect. -/
def Obligations.RefusedCommandsHaveNoEffect : Prop :=
  (∀ (s : State) a q size d, s.txTotalLen ≠ 0 →
    ∃ t, exec (.sendMessage a q size d) s = .next t ∧ SameBlock s t ∧ Outputs s t [] ⟨.txBusy, false⟩) ∧
  (∀ (s : State) a q (size : Len) d, s.txTotalLen = 0 → s.params.maxBufferSize < size.toNat →
    ∃ t, exec (.sendMessage a q size d) s = .next t ∧ SameBlock s t ∧ Outputs s t [] ⟨.txSize, false⟩) ∧
  (∀ (s : State) (w : InstrWord) (rest : List HostInput), s.inputs = .word w :: rest →
    decode s.params w = .error .reservedOpcode →
    ∃ t, step s = .next t ∧ SameBlock (s.setInputs rest) t ∧ Outputs s t [] ⟨.illegalCommand, false⟩)

/-- R75 (decision D19): with no session, `pumpPendingFragment` does nothing. -/
def Obligations.PumpWithNoSessionDoesNothing : Prop :=
  ∀ s : State, s.txTotalLen = 0 →
    ∃ t, exec .pumpPendingFragment s = .next t ∧ SameBlock s t ∧ Outputs s t [] ⟨.none, false⟩

/-- R75: with a session, `pumpPendingFragment` writes the next fragment, and the session advances, or ends after the last
fragment or a failed write. -/
def Obligations.PumpSendsTheNextFragment : Prop :=
  ∀ s : State, s.Inv → s.txTotalLen ≠ 0 →
    ∃ (t : State) (n : Nat) (isLast : Bool), exec .pumpPendingFragment s = .next t ∧
      n = min s.params.dataCapacity (s.txTotalLen.toNat - s.txSentOffset.toNat) ∧ 1 ≤ n ∧
      (isLast = true ↔ s.txSentOffset.toNat + n = s.txTotalLen.toNat) ∧
      (if linkAnswer s = true ∧ isLast = false then
          t.txTotalLen = s.txTotalLen ∧ t.txSentOffset.toNat = s.txSentOffset.toNat + n
        else t.txTotalLen = 0 ∧ t.txSentOffset = 0) ∧
      (∀ x, pendingByte t x = pendingByte s x) ∧
      SameReceive s t ∧ SameHandler s t ∧ SameHost s t ∧ OneAnswerUsed s t ∧
      Outputs s t
        (sendEvents (encodePacket (sealPacket
          (.data isLast 0 (BitVec.ofNat 8 (s.txSentOffset.toNat / s.params.dataCapacity)) (BitVec.ofNat 8 n)
            ((List.range n).map fun x => pendingByte s (s.txSentOffset.toNat + x))))))
        ⟨if linkAnswer s = true then .none else .transmitFailure, false⟩

/-- R77, R110: a failed write ends the message: the session is gone, the receive side is not touched, and no later
`pumpPendingFragment` sends anything. -/
def Obligations.TransmitFailureEndsTheMessage : Prop :=
  ∀ (s : State) (i : Instr), s.Inv → linkAnswer s = false →
    ((i = .pumpPendingFragment ∧ s.txTotalLen ≠ 0) ∨
      (∃ a q size d, i = .sendMessage a q size d ∧ s.txTotalLen = 0 ∧ size.toNat ≤ s.params.maxBufferSize)) →
    ∃ t, exec i s = .next t ∧ t.txTotalLen = 0 ∧ t.txSentOffset = 0 ∧ SameReceive s t ∧ SameHandler s t ∧
      (∃ f, Outputs s t (sendEvents f) ⟨.transmitFailure, false⟩) ∧
      ∀ n, ∃ u, execList (List.replicate n .pumpPendingFragment) t = .next u ∧ u.trace = t.trace

/-! ### Receiving -/

/-- R83, `INIT` in IDLE: the lead chunk is stored at address 0 and the count is its length. -/
def Obligations.InitInIdleStoresTheLeadChunk : Prop :=
  ∀ (s : State) c a q (n : Byte) (d : List Byte), s.params.Legal → s.rxReceivedLen = 0 →
    n.toNat ≤ s.params.initCapacity → d.length = n.toNat → packetValid (.init false c a q n d) = true →
    ∃ t, exec (.init c a q n d) s = .next t ∧
      t.rxReceivedLen.toNat = n.toNat ∧ (rxState t = .receiving ↔ n ≠ 0) ∧
      (∀ x, x < n.toNat → reassemblyByte t x = d.getD x 0) ∧
      (∀ x, n.toNat ≤ x → reassemblyByte t x = reassemblyByte s x) ∧
      SameTransmit s t ∧ SameHandler s t ∧ SameHost s t ∧ SameLink s t ∧ Outputs s t [] ⟨.none, false⟩

/-- R83, R85, `INIT.L` in IDLE: a whole message in one packet is stored and completed. -/
def Obligations.InitLastInIdleCompletes : Prop :=
  ∀ (s : State) c a q (n : Byte) (d : List Byte), s.params.Legal → s.rxReceivedLen = 0 →
    n.toNat ≤ s.params.initCapacity → d.length = n.toNat → packetValid (.init true c a q n d) = true →
    ∃ t, exec (.initL c a q n d) s = .next t ∧
      t.rxReceivedLen = 0 ∧
      (∀ x, x < n.toNat → reassemblyByte t x = d.getD x 0) ∧
      (∀ x, n.toNat ≤ x → reassemblyByte t x = reassemblyByte s x) ∧
      SameTransmit s t ∧ SameHandler s t ∧ SameHost s t ∧ SameLink s t ∧
      Outputs s t (doneEvents s (zext16 n) (snapshot t)) ⟨.none, true⟩

/-- R109 (conflict C1): an INIT that arrives during a reception is not stored and does not set the count; marked last, it
completes the message in progress. -/
def Obligations.InitWhileReceivingIsRejected : Prop :=
  ∀ (s : State) c a q n d, s.rxReceivedLen ≠ 0 →
    (packetValid (.init false c a q n d) = true →
      ∃ t, exec (.init c a q n d) s = .next t ∧ SameBlock s t ∧
        Outputs s t [] ⟨.concurrentTransferRejected, false⟩) ∧
    (packetValid (.init true c a q n d) = true →
      ∃ t, exec (.initL c a q n d) s = .next t ∧ t.rxReceivedLen = 0 ∧
        (∀ x, reassemblyByte t x = reassemblyByte s x) ∧
        SameTransmit s t ∧ SameHandler s t ∧ SameHost s t ∧ SameLink s t ∧
        Outputs s t (doneEvents s s.rxReceivedLen (snapshot s)) ⟨.concurrentTransferRejected, true⟩)

/-- R84, R85, a DATA packet that fits, in either state: its bytes are stored at the fragment's offset and counted with
saturation; marked last, it completes. -/
def Obligations.DataThatFitsIsStoredAndCounted : Prop :=
  ∀ (s : State) c (k n : Byte) (d : List Byte) (o : Nat), d.length = n.toNat →
    o = s.params.initCapacity + k.toNat * s.params.dataCapacity → o + n.toNat ≤ s.params.maxBufferSize →
    (packetValid (.data false c k n d) = true →
      ∃ t, exec (.data c k n d) s = .next t ∧
        t.rxReceivedLen.toNat = min (s.rxReceivedLen.toNat + n.toNat) 65535 ∧
        (∀ x, x < n.toNat → reassemblyByte t (o + x) = d.getD x 0) ∧
        (∀ x, x < o ∨ o + n.toNat ≤ x → reassemblyByte t x = reassemblyByte s x) ∧
        SameTransmit s t ∧ SameHandler s t ∧ SameHost s t ∧ SameLink s t ∧ Outputs s t [] ⟨.none, false⟩) ∧
    (packetValid (.data true c k n d) = true →
      ∃ t len, exec (.dataL c k n d) s = .next t ∧ t.rxReceivedLen = 0 ∧
        len.toNat = min (s.rxReceivedLen.toNat + n.toNat) 65535 ∧
        (∀ x, x < n.toNat → reassemblyByte t (o + x) = d.getD x 0) ∧
        (∀ x, x < o ∨ o + n.toNat ≤ x → reassemblyByte t x = reassemblyByte s x) ∧
        SameTransmit s t ∧ SameHandler s t ∧ SameHost s t ∧ SameLink s t ∧
        Outputs s t (doneEvents s len (snapshot t)) ⟨.none, true⟩)

/-- R108, R84 (conflict C6): a DATA packet that does not fit stores nothing and counts nothing; marked last, it still
completes the message in progress. -/
def Obligations.DataThatOverflowsStoresNothing : Prop :=
  ∀ (s : State) c (k n : Byte) d,
    s.params.maxBufferSize < s.params.initCapacity + k.toNat * s.params.dataCapacity + n.toNat →
    (packetValid (.data false c k n d) = true →
      ∃ t, exec (.data c k n d) s = .next t ∧ SameBlock s t ∧ Outputs s t [] ⟨.bufferOverflow, false⟩) ∧
    (packetValid (.data true c k n d) = true →
      ∃ t, exec (.dataL c k n d) s = .next t ∧ t.rxReceivedLen = 0 ∧
        (∀ x, reassemblyByte t x = reassemblyByte s x) ∧
        SameTransmit s t ∧ SameHandler s t ∧ SameHost s t ∧ SameLink s t ∧
        Outputs s t (doneEvents s s.rxReceivedLen (snapshot s)) ⟨.bufferOverflow, true⟩)

/-- R107: a packet that fails the gate changes no state and completes nothing, whatever its last-fragment flag. -/
def Obligations.ChecksumMismatchChangesNothing : Prop :=
  (∀ (s : State) (p : Packet), packetValid p = false →
    ∃ t, exec p.toInstr s = .next t ∧ SameBlock s t ∧ Outputs s t [] ⟨.checksumMismatch, false⟩) ∧
  (∀ (s : State) (f : Frame) (p : Packet), decodeFrame s.params f = .ok p → packetValid p = false →
    ∃ t, exec (.onPacketReceived f) s = .next t ∧ SameBlock s t ∧ Outputs s t [] ⟨.checksumMismatch, false⟩)

/-- R111, with the checks of R54: a frame is malformed exactly if the decoder rejects it, and a malformed frame changes no
state and completes nothing. -/
def Obligations.MalformedFramesChangeNothing : Prop :=
  ∀ (s : State) (f : Frame),
    (Malformed s.params f ↔ ∃ e, decodeFrame s.params f = .error e) ∧
    (Malformed s.params f →
      ∃ t, exec (.onPacketReceived f) s = .next t ∧ SameBlock s t ∧ Outputs s t [] ⟨.malformedFrame, false⟩)

/-- R82, R86: `onPacketReceived` of a frame whose packet passes the gate does what that packet's kind does, with the count,
the state, the `Done` length and the cause of the transition table. -/
def Obligations.OnPacketReceivedFollowsTheTransitionTable : Prop :=
  ∀ (s : State) (f : Frame) (p : Packet), s.params.Legal → decodeFrame s.params f = .ok p → packetValid p = true →
    ∃ t, exec (.onPacketReceived f) s = .next t ∧ exec p.toInstr s = .next t ∧
      t.rxReceivedLen = (if packetIsLast p = true then 0 else countAfter s p) ∧
      SameTransmit s t ∧ SameHandler s t ∧ SameHost s t ∧ SameLink s t ∧
      Outputs s t (if packetIsLast p = true then doneEvents s (countAfter s p) (snapshot t) else [])
        ⟨causeOf s p, packetIsLast p⟩

/-- R87: a duplicated fragment is counted again and stores the same bytes. -/
def Obligations.DuplicateFragmentsAreCountedAgain : Prop :=
  ∀ (s : State) c (k n : Byte) (d : List Byte), d.length = n.toNat →
    s.params.initCapacity + k.toNat * s.params.dataCapacity + n.toNat ≤ s.params.maxBufferSize →
    packetValid (.data false c k n d) = true →
    ∃ t u, exec (.data c k n d) s = .next t ∧ exec (.data c k n d) t = .next u ∧
      u.rxReceivedLen.toNat = min (s.rxReceivedLen.toNat + 2 * n.toNat) 65535 ∧
      (∀ x, reassemblyByte u x = reassemblyByte t x) ∧ u.trace = s.trace

/-- R84, R36: two fragments with different indices land the same way in either order. -/
def Obligations.FragmentsLandTheSameInEitherOrder : Prop :=
  ∀ (s : State) c c' (k k' n n' : Byte) (d d' : List Byte), k ≠ k' →
    (Packet.data false c k n d).wf s.params = true → (Packet.data false c' k' n' d').wf s.params = true →
    packetValid (.data false c k n d) = true → packetValid (.data false c' k' n' d') = true →
    ∃ t u, execList [.data c k n d, .data c' k' n' d'] s = .next t ∧
      execList [.data c' k' n' d', .data c k n d] s = .next u ∧
      t.rxReceivedLen = u.rxReceivedLen ∧ (∀ x, reassemblyByte t x = reassemblyByte u x) ∧ t.trace = u.trace

/-- R133: a receiver whose last fragment was lost rejects every later INIT that is not marked last and stays as it is. -/
def Obligations.StuckReceiverRejectsEveryInit : Prop :=
  ∀ (s : State) (fs : List Frame), s.rxReceivedLen ≠ 0 →
    (∀ f, f ∈ fs → ∃ c a q n d, decodeFrame s.params f = .ok (.init false c a q n d) ∧
      packetValid (.init false c a q n d) = true) →
    ∃ t, execList (fs.map .onPacketReceived) s = .next t ∧ SameBlock s t ∧ t.trace = s.trace ∧
      t.outcomes = s.outcomes ++ fs.map fun _ => .single ⟨.concurrentTransferRejected, false⟩

/-- R92: the reassembler leaves RECEIVING only by reset or by a checksum-valid packet marked last. -/
def Obligations.OnlyLastPacketsOrResetLeaveReceiving : Prop :=
  ∀ s t : State, s.rxReceivedLen ≠ 0 → step s = .next t → t.rxReceivedLen = 0 →
    (∃ rest, s.inputs = .reset :: rest) ∨
    (∃ w rest i, s.inputs = .word w :: rest ∧ decode s.params w = .ok i ∧
      ((∃ p : Packet, i = p.toInstr ∧ packetValid p = true ∧ packetIsLast p = true) ∨
        (∃ f, i = .onPacketReceived f ∧ Completing s.params f) ∨
        (i = .tick ∧ ∃ f, s.inbound.getLast? = some f ∧ Completing s.params f)))

/-- R138: nine or more zero bytes are a checksum-valid INIT packet of no bytes, which changes nothing in either state. -/
def Obligations.AllZeroFrameIsHarmless : Prop :=
  ∀ (s : State) (n : Nat), 9 ≤ n →
    decodeFrame s.params (List.replicate n 0) = .ok (.init false 0 0 0 0 []) ∧
    packetValid (.init false 0 0 0 0 []) = true ∧
    ∃ t, exec (.onPacketReceived (List.replicate n 0)) s = .next t ∧ SameBlock s t ∧
      Outputs s t [] ⟨if s.rxReceivedLen = 0 then .none else .concurrentTransferRejected, false⟩

/-! ### Handler and tick -/

/-- R98: registering a handler, of which the last wins. An identifier has HANDLER_W bits; of a larger number the register
keeps the low ones (log entry 10). -/
def Obligations.LastRegisteredHandlerWins : Prop :=
  ∀ (s : State) (h h' : Nat), h < 2 ^ s.params.handlerW →
    (∃ t, exec (.setCompletionHandler h) s = .next t ∧ t.cbValid = true ∧ t.cbHandler = h ∧
      SameTransmit s t ∧ SameReceive s t ∧ SameHost s t ∧ SameLink s t ∧ Outputs s t [] ⟨.none, false⟩) ∧
    (∃ t, execList [.setCompletionHandler h', .setCompletionHandler h] s = .next t ∧
      t.cbValid = true ∧ t.cbHandler = h) ∧
    (∃ t, exec (.setCompletionHandler h') s = .next t ∧ t.cbHandler = h' % 2 ^ s.params.handlerW)

/-- R99, R105: `tick` is one pump, then one poll and, if the link holds a frame, one `onPacketReceived` of the last one;
its outcome is the pair of theirs. -/
def Obligations.TickIsPumpThenReceive : Prop :=
  ∀ s : State, s.Inv →
    (s.inbound = [] →
      ∃ t r, exec .pumpPendingFragment s = .next t ∧ t.outcomes = s.outcomes ++ [.single r] ∧
        exec .tick s = .next { t with outcomes := s.outcomes ++ [.tick r ⟨.none, false⟩] }) ∧
    (∀ fs f, s.inbound = fs ++ [f] →
      ∃ t u r r', exec .pumpPendingFragment s = .next t ∧ t.outcomes = s.outcomes ++ [.single r] ∧
        exec (.onPacketReceived f) (t.setInbound []) = .next u ∧ u.outcomes = t.outcomes ++ [.single r'] ∧
        exec .tick s = .next { u with outcomes := s.outcomes ++ [.tick r r'] })

/-- R97, R132: of the frames the link holds at a poll only the last counts, and the poll empties the link. -/
def Obligations.OnlyTheLastFrameOfABurstCounts : Prop :=
  ∀ (s : State) (fs : List Frame) (f : Frame),
    exec .tick (s.setInbound (fs ++ [f])) = exec .tick (s.setInbound [f]) ∧
    ∀ t, exec .tick s = .next t → t.inbound = []

/-- R99: with no session and nothing inbound, `tick` does nothing. -/
def Obligations.TickWithNothingToDo : Prop :=
  ∀ s : State, s.txTotalLen = 0 → s.inbound = [] →
    ∃ t, exec .tick s = .next t ∧ SameBlock s t ∧ t.trace = s.trace ∧
      t.outcomes = s.outcomes ++ [.tick ⟨.none, false⟩ ⟨.none, false⟩]

/-! ### Placement and whole messages -/

/-- R43: neither the receiver's offset nor the sender's fragment index wraps. -/
def Obligations.OffsetsAndIndicesNeverWrap : Prop :=
  (∀ (P : Params) (k : Nat), P.Legal → k < 256 → fragmentOffset P k ≤ 65280) ∧
  (∀ s : State, s.Inv → s.txTotalLen ≠ 0 →
    nextIndex s ≤ (s.params.pendingSize - 1) / s.params.dataCapacity ∧ nextIndex s ≤ 255)

/-- R36, R44: the regions of the lead chunk and of the fragments do not overlap, and payload byte `j` has its place at
address `j`. -/
def Obligations.FragmentRegionsDoNotOverlap : Prop :=
  (∀ (P : Params) (k k' x x' : Nat), x < P.dataCapacity → x' < P.dataCapacity → k ≠ k' →
    P.initCapacity ≤ fragmentOffset P k + x ∧ fragmentOffset P k + x ≠ fragmentOffset P k' + x') ∧
  (∀ (P : Params) (j : Nat), P.initCapacity ≤ j →
    fragmentOffset P ((j - P.initCapacity) / P.dataCapacity) + (j - P.initCapacity) % P.dataCapacity = j)

/-- R80: `ceil` of what is left over DATA_CAPACITY pump operations end a session, whatever the link answers. -/
def Obligations.PumpingEndsTheSession : Prop :=
  ∀ s : State, s.Inv →
    ∃ t, execList
        (List.replicate (ceilDiv (s.txTotalLen.toNat - s.txSentOffset.toNat) s.params.dataCapacity)
          .pumpPendingFragment) s = .next t ∧
      t.txTotalLen = 0 ∧ t.txSentOffset = 0

/-- R80: nothing but `pumpPendingFragment`, `tick` and reset ends a session. -/
def Obligations.OnlyPumpTickAndResetEndASession : Prop :=
  ∀ s t : State, s.txTotalLen ≠ 0 → step s = .next t → t.txTotalLen = 0 →
    ∃ rest, s.inputs = .reset :: rest ∨
      ∃ w, s.inputs = .word w :: rest ∧
        (decode s.params w = .ok .pumpPendingFragment ∨ decode s.params w = .ok .tick)

/-- R74: the packets of a message are well-formed, carry its payload in order, and only the last is marked last. -/
def Obligations.MessagePacketsCarryThePayload : Prop :=
  ∀ (P : Params) a q (d : List Byte), P.Legal → d.length ≤ P.maxBufferSize →
    (∀ p, p ∈ messagePackets P a q d → p.wf P = true) ∧
    ((messagePackets P a q d).map fun p => match p with
        | .init _ _ _ _ _ bytes => bytes
        | .data _ _ _ _ bytes => bytes).flatten = d ∧
    (messagePackets P a q d).map packetIsLast = List.replicate (messageFragments P d) false ++ [true]

/-- R74, R76: an accepted message and enough successful pumps put exactly its frames on the link, in order, one write each. -/
def Obligations.MessageFramesGoOnTheLinkInOrder : Prop :=
  ∀ (s : State) a q (size : Len) (d : List Byte) (answers : List Bool), s.Inv → s.txTotalLen = 0 →
    d.length = size.toNat → size.toNat ≤ s.params.maxBufferSize →
    s.linkAnswers = List.replicate (messageFragments s.params d + 1) true ++ answers →
    ∃ t, execList (messageOperations s.params a q size d) s = .next t ∧
      t.trace = s.trace ++ (messageFrames s.params a q d).flatMap sendEvents ∧
      t.txTotalLen = 0 ∧ t.txSentOffset = 0 ∧ t.linkAnswers = answers ∧
      SameReceive s t ∧ SameHandler s t

/-- R88: the frames a sender writes for a message, given in order to an idle receiver with the same constants and a
registered handler, yield exactly one `Done`, on the last frame, with the message's length and bytes. -/
def Obligations.MessageRoundTrip : Prop :=
  ∀ (s r : State) a q (size : Len) (d : List Byte) (answers : List Bool), s.Inv → s.txTotalLen = 0 →
    d.length = size.toNat → size.toNat ≤ s.params.maxBufferSize →
    s.linkAnswers = List.replicate (messageFragments s.params d + 1) true ++ answers →
    r.params.initCapacity = s.params.initCapacity → r.params.dataCapacity = s.params.dataCapacity →
    r.params.maxBufferSize = s.params.maxBufferSize → r.rxReceivedLen = 0 → r.cbValid = true →
    ∃ t frames last u v snap, execList (messageOperations s.params a q size d) s = .next t ∧
      t.trace = s.trace ++ (frames ++ [last]).flatMap sendEvents ∧
      execList (frames.map .onPacketReceived) r = .next u ∧ u.trace = r.trace ∧
      exec (.onPacketReceived last) u = .next v ∧
      v.trace = r.trace ++ [.done r.cbHandler size snap] ∧
      snap.length = r.params.maxBufferSize ∧ snap.take size.toNat = d ∧ rxState v = .idle
end

