-- ==== Sys2Proof/Laws/Codec.lean ====
section
/-! SUPPORT. The laws of fields, FLAGS bytes, checksums and the handler operand, which proofs about frames cite. -/

namespace Sys2Proof

theorem extractByte_toNat {w : Nat} (v : BitVec w) (k : Nat) : (v.extractLsb' k 8).toNat = v.toNat / 2 ^ k % 256 := by
  simp [BitVec.extractLsb'_toNat, Nat.shiftRight_eq_div_pow]

/-! ### Address, port, size -/

theorem addressOfBytes_toNat (b3 b2 b1 b0 : Byte) :
    (addressOfBytes b3 b2 b1 b0).toNat = b3.toNat * 16777216 + b2.toNat * 65536 + b1.toNat * 256 + b0.toNat := by
  have := b3.isLt; have := b2.isLt; have := b1.isLt; have := b0.isLt
  simp only [addressOfBytes, BitVec.toNat_ofNat]
  omega

theorem halfOfBytes_toNat (b1 b0 : Byte) : (halfOfBytes b1 b0).toNat = b1.toNat * 256 + b0.toNat := by
  have := b1.isLt; have := b0.isLt
  simp only [halfOfBytes, BitVec.toNat_ofNat]
  omega

/-- R49: assembling an address from its own bytes gives it back. -/
theorem addressOfBytes_addressBytes (a : Address) :
    addressOfBytes (a.extractLsb' 24 8) (a.extractLsb' 16 8) (a.extractLsb' 8 8) (a.extractLsb' 0 8) = a := by
  have := a.isLt
  apply BitVec.eq_of_toNat_eq
  simp only [addressOfBytes, BitVec.toNat_ofNat, extractByte_toNat]
  omega

/-- R50: assembling a 16-bit field from its own bytes gives it back. -/
theorem halfOfBytes_halfBytes (v : BitVec 16) : halfOfBytes (v.extractLsb' 8 8) (v.extractLsb' 0 8) = v := by
  have := v.isLt
  apply BitVec.eq_of_toNat_eq
  simp only [halfOfBytes, BitVec.toNat_ofNat, extractByte_toNat]
  omega

theorem addressBytes_addressOfBytes (b3 b2 b1 b0 : Byte) :
    addressBytes (addressOfBytes b3 b2 b1 b0) = [b3, b2, b1, b0] := by
  have := b3.isLt; have := b2.isLt; have := b1.isLt; have := b0.isLt
  simp only [addressBytes, List.cons.injEq, and_true]
  refine ⟨?_, ?_, ?_, ?_⟩ <;> apply BitVec.eq_of_toNat_eq <;>
    rw [extractByte_toNat, addressOfBytes_toNat] <;> omega

theorem halfBytes_halfOfBytes (b1 b0 : Byte) : halfBytes (halfOfBytes b1 b0) = [b1, b0] := by
  have := b1.isLt; have := b0.isLt
  simp only [halfBytes, List.cons.injEq, and_true]
  refine ⟨?_, ?_⟩ <;> apply BitVec.eq_of_toNat_eq <;> rw [extractByte_toNat, halfOfBytes_toNat] <;> omega

/-! ### The handler operand -/

@[simp] theorem bytesOfNat_length (n v : Nat) : (bytesOfNat n v).length = n := by
  induction n with
  | zero => rfl
  | succ n ih => simp [bytesOfNat, ih]

theorem foldl_bytesOfNat (n v acc : Nat) :
    (bytesOfNat n v).foldl (fun acc b => acc * 256 + b.toNat) acc = acc * 256 ^ n + v % 256 ^ n := by
  induction n generalizing acc with
  | zero => simp [bytesOfNat, Nat.mod_one]
  | succ n ih =>
    have h := Nat.mod_mul (x := v) (a := 256 ^ n) (b := 256)
    simp only [bytesOfNat, List.foldl_cons, ih, BitVec.toNat_ofNat, pow_succ, h]
    norm_num
    ring

theorem natOfBytes_bytesOfNat (n v : Nat) (h : v < 256 ^ n) : natOfBytes (bytesOfNat n v) = v := by
  rw [natOfBytes, foldl_bytesOfNat]
  simp [Nat.mod_eq_of_lt h]

theorem two_pow_handlerW_le (P : Params) : 2 ^ P.handlerW ≤ 256 ^ handlerBytes P := by
  rw [show (256 : Nat) = 2 ^ 8 from rfl, ← pow_mul]
  apply Nat.pow_le_pow_right (by omega)
  unfold handlerBytes
  omega

/-! ### The FLAGS byte -/

/-- R46: the four legal FLAGS bytes, by their fields. -/
theorem flagsByte_fields (isData isLast : Bool) :
    (flagsByte isData isLast).extractLsb' 2 6 = 0 ∧ (flagsByte isData isLast)[0] = isData ∧
    (flagsByte isData isLast)[1] = isLast := by
  cases isData <;> cases isLast <;> decide

theorem flagsByte_of_fields (b : Byte) (h : b.extractLsb' 2 6 = 0) : flagsByte b[0] b[1] = b := by
  revert b; decide

namespace Machine

/-! ### The checksum -/

@[simp] theorem xorFold_nil (c : Byte) : xorFold c [] = c := rfl

@[simp] theorem xorFold_cons (c b : Byte) (bs : List Byte) : xorFold c (b :: bs) = xorFold (c ^^^ b) bs := rfl

theorem xorFold_append (c : Byte) (as bs : List Byte) : xorFold c (as ++ bs) = xorFold (xorFold c as) bs := by
  simp [xorFold]

theorem xorFold_start (c : Byte) (bs : List Byte) : xorFold c bs = c ^^^ xorFold 0 bs := by
  induction bs generalizing c with
  | nil => simp
  | cons b bs ih =>
    rw [xorFold_cons, xorFold_cons, ih, ih (0 ^^^ b)]
    simp [BitVec.xor_assoc]

/-- Sealing a packet makes it pass the gate, and changes only its checksum. -/
theorem packetValid_sealPacket (p : Packet) : packetValid (sealPacket p) = true := by
  cases p <;> simp [packetValid, sealPacket, packetChecksum, calcChecksum, Packet.flags]

theorem wf_sealPacket (P : Params) (p : Packet) : (sealPacket p).wf P = p.wf P := by
  cases p <;> rfl

theorem packetLength_sealPacket (p : Packet) : packetLength (sealPacket p) = packetLength p := by
  cases p <;> rfl

theorem packetIsLast_sealPacket (p : Packet) : packetIsLast (sealPacket p) = packetIsLast p := by
  cases p <;> rfl

end Machine

end Sys2Proof
end

