-- ==== Sys2Proof/Laws/State.lean ====
section
/-! SUPPORT. One lemma per field per named update of State, true by rfl, so that no proof unfolds a record update. -/

namespace Sys2Proof.Machine

variable (s : State)

/-! ### `setTx` -/

@[simp] theorem setTx_params (a b : Len) : (s.setTx a b).params = s.params := rfl
@[simp] theorem setTx_txTotalLen (a b : Len) : (s.setTx a b).txTotalLen = a := rfl
@[simp] theorem setTx_txSentOffset (a b : Len) : (s.setTx a b).txSentOffset = b := rfl
@[simp] theorem setTx_pendingBuffer (a b : Len) : (s.setTx a b).pendingBuffer = s.pendingBuffer := rfl
@[simp] theorem setTx_rxReceivedLen (a b : Len) : (s.setTx a b).rxReceivedLen = s.rxReceivedLen := rfl
@[simp] theorem setTx_reassemblyBuffer (a b : Len) : (s.setTx a b).reassemblyBuffer = s.reassemblyBuffer := rfl
@[simp] theorem setTx_cbValid (a b : Len) : (s.setTx a b).cbValid = s.cbValid := rfl
@[simp] theorem setTx_cbHandler (a b : Len) : (s.setTx a b).cbHandler = s.cbHandler := rfl
@[simp] theorem setTx_inputs (a b : Len) : (s.setTx a b).inputs = s.inputs := rfl
@[simp] theorem setTx_linkAnswers (a b : Len) : (s.setTx a b).linkAnswers = s.linkAnswers := rfl
@[simp] theorem setTx_linkWrites (a b : Len) : (s.setTx a b).linkWrites = s.linkWrites := rfl
@[simp] theorem setTx_inbound (a b : Len) : (s.setTx a b).inbound = s.inbound := rfl
@[simp] theorem setTx_trace (a b : Len) : (s.setTx a b).trace = s.trace := rfl
@[simp] theorem setTx_outcomes (a b : Len) : (s.setTx a b).outcomes = s.outcomes := rfl

/-! ### `setPending` -/

@[simp] theorem setPending_params (m : Memory) : (s.setPending m).params = s.params := rfl
@[simp] theorem setPending_txTotalLen (m : Memory) : (s.setPending m).txTotalLen = s.txTotalLen := rfl
@[simp] theorem setPending_txSentOffset (m : Memory) : (s.setPending m).txSentOffset = s.txSentOffset := rfl
@[simp] theorem setPending_pendingBuffer (m : Memory) : (s.setPending m).pendingBuffer = m := rfl
@[simp] theorem setPending_rxReceivedLen (m : Memory) : (s.setPending m).rxReceivedLen = s.rxReceivedLen := rfl
@[simp] theorem setPending_reassemblyBuffer (m : Memory) : (s.setPending m).reassemblyBuffer = s.reassemblyBuffer := rfl
@[simp] theorem setPending_cbValid (m : Memory) : (s.setPending m).cbValid = s.cbValid := rfl
@[simp] theorem setPending_cbHandler (m : Memory) : (s.setPending m).cbHandler = s.cbHandler := rfl
@[simp] theorem setPending_inputs (m : Memory) : (s.setPending m).inputs = s.inputs := rfl
@[simp] theorem setPending_linkAnswers (m : Memory) : (s.setPending m).linkAnswers = s.linkAnswers := rfl
@[simp] theorem setPending_linkWrites (m : Memory) : (s.setPending m).linkWrites = s.linkWrites := rfl
@[simp] theorem setPending_inbound (m : Memory) : (s.setPending m).inbound = s.inbound := rfl
@[simp] theorem setPending_trace (m : Memory) : (s.setPending m).trace = s.trace := rfl
@[simp] theorem setPending_outcomes (m : Memory) : (s.setPending m).outcomes = s.outcomes := rfl

/-! ### `setRx` -/

@[simp] theorem setRx_params (a : Len) : (s.setRx a).params = s.params := rfl
@[simp] theorem setRx_txTotalLen (a : Len) : (s.setRx a).txTotalLen = s.txTotalLen := rfl
@[simp] theorem setRx_txSentOffset (a : Len) : (s.setRx a).txSentOffset = s.txSentOffset := rfl
@[simp] theorem setRx_pendingBuffer (a : Len) : (s.setRx a).pendingBuffer = s.pendingBuffer := rfl
@[simp] theorem setRx_rxReceivedLen (a : Len) : (s.setRx a).rxReceivedLen = a := rfl
@[simp] theorem setRx_reassemblyBuffer (a : Len) : (s.setRx a).reassemblyBuffer = s.reassemblyBuffer := rfl
@[simp] theorem setRx_cbValid (a : Len) : (s.setRx a).cbValid = s.cbValid := rfl
@[simp] theorem setRx_cbHandler (a : Len) : (s.setRx a).cbHandler = s.cbHandler := rfl
@[simp] theorem setRx_inputs (a : Len) : (s.setRx a).inputs = s.inputs := rfl
@[simp] theorem setRx_linkAnswers (a : Len) : (s.setRx a).linkAnswers = s.linkAnswers := rfl
@[simp] theorem setRx_linkWrites (a : Len) : (s.setRx a).linkWrites = s.linkWrites := rfl
@[simp] theorem setRx_inbound (a : Len) : (s.setRx a).inbound = s.inbound := rfl
@[simp] theorem setRx_trace (a : Len) : (s.setRx a).trace = s.trace := rfl
@[simp] theorem setRx_outcomes (a : Len) : (s.setRx a).outcomes = s.outcomes := rfl

/-! ### `setReassembly` -/

@[simp] theorem setReassembly_params (m : Memory) : (s.setReassembly m).params = s.params := rfl
@[simp] theorem setReassembly_txTotalLen (m : Memory) : (s.setReassembly m).txTotalLen = s.txTotalLen := rfl
@[simp] theorem setReassembly_txSentOffset (m : Memory) : (s.setReassembly m).txSentOffset = s.txSentOffset := rfl
@[simp] theorem setReassembly_pendingBuffer (m : Memory) : (s.setReassembly m).pendingBuffer = s.pendingBuffer := rfl
@[simp] theorem setReassembly_rxReceivedLen (m : Memory) : (s.setReassembly m).rxReceivedLen = s.rxReceivedLen := rfl
@[simp] theorem setReassembly_reassemblyBuffer (m : Memory) : (s.setReassembly m).reassemblyBuffer = m := rfl
@[simp] theorem setReassembly_cbValid (m : Memory) : (s.setReassembly m).cbValid = s.cbValid := rfl
@[simp] theorem setReassembly_cbHandler (m : Memory) : (s.setReassembly m).cbHandler = s.cbHandler := rfl
@[simp] theorem setReassembly_inputs (m : Memory) : (s.setReassembly m).inputs = s.inputs := rfl
@[simp] theorem setReassembly_linkAnswers (m : Memory) : (s.setReassembly m).linkAnswers = s.linkAnswers := rfl
@[simp] theorem setReassembly_linkWrites (m : Memory) : (s.setReassembly m).linkWrites = s.linkWrites := rfl
@[simp] theorem setReassembly_inbound (m : Memory) : (s.setReassembly m).inbound = s.inbound := rfl
@[simp] theorem setReassembly_trace (m : Memory) : (s.setReassembly m).trace = s.trace := rfl
@[simp] theorem setReassembly_outcomes (m : Memory) : (s.setReassembly m).outcomes = s.outcomes := rfl

/-! ### `setHandler` -/

@[simp] theorem setHandler_params (v : Bool) (h : Nat) : (s.setHandler v h).params = s.params := rfl
@[simp] theorem setHandler_txTotalLen (v : Bool) (h : Nat) : (s.setHandler v h).txTotalLen = s.txTotalLen := rfl
@[simp] theorem setHandler_txSentOffset (v : Bool) (h : Nat) : (s.setHandler v h).txSentOffset = s.txSentOffset := rfl
@[simp] theorem setHandler_pendingBuffer (v : Bool) (h : Nat) : (s.setHandler v h).pendingBuffer = s.pendingBuffer := rfl
@[simp] theorem setHandler_rxReceivedLen (v : Bool) (h : Nat) : (s.setHandler v h).rxReceivedLen = s.rxReceivedLen := rfl
@[simp] theorem setHandler_reassemblyBuffer (v : Bool) (h : Nat) : (s.setHandler v h).reassemblyBuffer = s.reassemblyBuffer := rfl
@[simp] theorem setHandler_cbValid (v : Bool) (h : Nat) : (s.setHandler v h).cbValid = v := rfl
@[simp] theorem setHandler_cbHandler (v : Bool) (h : Nat) : (s.setHandler v h).cbHandler = h := rfl
@[simp] theorem setHandler_inputs (v : Bool) (h : Nat) : (s.setHandler v h).inputs = s.inputs := rfl
@[simp] theorem setHandler_linkAnswers (v : Bool) (h : Nat) : (s.setHandler v h).linkAnswers = s.linkAnswers := rfl
@[simp] theorem setHandler_linkWrites (v : Bool) (h : Nat) : (s.setHandler v h).linkWrites = s.linkWrites := rfl
@[simp] theorem setHandler_inbound (v : Bool) (h : Nat) : (s.setHandler v h).inbound = s.inbound := rfl
@[simp] theorem setHandler_trace (v : Bool) (h : Nat) : (s.setHandler v h).trace = s.trace := rfl
@[simp] theorem setHandler_outcomes (v : Bool) (h : Nat) : (s.setHandler v h).outcomes = s.outcomes := rfl

/-! ### `emit` -/

@[simp] theorem emit_params (es : List OutEvent) : (s.emit es).params = s.params := rfl
@[simp] theorem emit_txTotalLen (es : List OutEvent) : (s.emit es).txTotalLen = s.txTotalLen := rfl
@[simp] theorem emit_txSentOffset (es : List OutEvent) : (s.emit es).txSentOffset = s.txSentOffset := rfl
@[simp] theorem emit_pendingBuffer (es : List OutEvent) : (s.emit es).pendingBuffer = s.pendingBuffer := rfl
@[simp] theorem emit_rxReceivedLen (es : List OutEvent) : (s.emit es).rxReceivedLen = s.rxReceivedLen := rfl
@[simp] theorem emit_reassemblyBuffer (es : List OutEvent) : (s.emit es).reassemblyBuffer = s.reassemblyBuffer := rfl
@[simp] theorem emit_cbValid (es : List OutEvent) : (s.emit es).cbValid = s.cbValid := rfl
@[simp] theorem emit_cbHandler (es : List OutEvent) : (s.emit es).cbHandler = s.cbHandler := rfl
@[simp] theorem emit_inputs (es : List OutEvent) : (s.emit es).inputs = s.inputs := rfl
@[simp] theorem emit_linkAnswers (es : List OutEvent) : (s.emit es).linkAnswers = s.linkAnswers := rfl
@[simp] theorem emit_linkWrites (es : List OutEvent) : (s.emit es).linkWrites = s.linkWrites := rfl
@[simp] theorem emit_inbound (es : List OutEvent) : (s.emit es).inbound = s.inbound := rfl
@[simp] theorem emit_trace (es : List OutEvent) : (s.emit es).trace = s.trace ++ es := rfl
@[simp] theorem emit_outcomes (es : List OutEvent) : (s.emit es).outcomes = s.outcomes := rfl

/-! ### `report` -/

@[simp] theorem report_params (o : OpOutcome) : (s.report o).params = s.params := rfl
@[simp] theorem report_txTotalLen (o : OpOutcome) : (s.report o).txTotalLen = s.txTotalLen := rfl
@[simp] theorem report_txSentOffset (o : OpOutcome) : (s.report o).txSentOffset = s.txSentOffset := rfl
@[simp] theorem report_pendingBuffer (o : OpOutcome) : (s.report o).pendingBuffer = s.pendingBuffer := rfl
@[simp] theorem report_rxReceivedLen (o : OpOutcome) : (s.report o).rxReceivedLen = s.rxReceivedLen := rfl
@[simp] theorem report_reassemblyBuffer (o : OpOutcome) : (s.report o).reassemblyBuffer = s.reassemblyBuffer := rfl
@[simp] theorem report_cbValid (o : OpOutcome) : (s.report o).cbValid = s.cbValid := rfl
@[simp] theorem report_cbHandler (o : OpOutcome) : (s.report o).cbHandler = s.cbHandler := rfl
@[simp] theorem report_inputs (o : OpOutcome) : (s.report o).inputs = s.inputs := rfl
@[simp] theorem report_linkAnswers (o : OpOutcome) : (s.report o).linkAnswers = s.linkAnswers := rfl
@[simp] theorem report_linkWrites (o : OpOutcome) : (s.report o).linkWrites = s.linkWrites := rfl
@[simp] theorem report_inbound (o : OpOutcome) : (s.report o).inbound = s.inbound := rfl
@[simp] theorem report_trace (o : OpOutcome) : (s.report o).trace = s.trace := rfl
@[simp] theorem report_outcomes (o : OpOutcome) : (s.report o).outcomes = s.outcomes ++ [o] := rfl

/-! ### `useAnswer` -/

@[simp] theorem useAnswer_params : (s.useAnswer).params = s.params := rfl
@[simp] theorem useAnswer_txTotalLen : (s.useAnswer).txTotalLen = s.txTotalLen := rfl
@[simp] theorem useAnswer_txSentOffset : (s.useAnswer).txSentOffset = s.txSentOffset := rfl
@[simp] theorem useAnswer_pendingBuffer : (s.useAnswer).pendingBuffer = s.pendingBuffer := rfl
@[simp] theorem useAnswer_rxReceivedLen : (s.useAnswer).rxReceivedLen = s.rxReceivedLen := rfl
@[simp] theorem useAnswer_reassemblyBuffer : (s.useAnswer).reassemblyBuffer = s.reassemblyBuffer := rfl
@[simp] theorem useAnswer_cbValid : (s.useAnswer).cbValid = s.cbValid := rfl
@[simp] theorem useAnswer_cbHandler : (s.useAnswer).cbHandler = s.cbHandler := rfl
@[simp] theorem useAnswer_inputs : (s.useAnswer).inputs = s.inputs := rfl
@[simp] theorem useAnswer_linkAnswers : (s.useAnswer).linkAnswers = s.linkAnswers.tail := rfl
@[simp] theorem useAnswer_linkWrites : (s.useAnswer).linkWrites = s.linkWrites + 1 := rfl
@[simp] theorem useAnswer_inbound : (s.useAnswer).inbound = s.inbound := rfl
@[simp] theorem useAnswer_trace : (s.useAnswer).trace = s.trace := rfl
@[simp] theorem useAnswer_outcomes : (s.useAnswer).outcomes = s.outcomes := rfl

/-! ### `setInbound` -/

@[simp] theorem setInbound_params (fs : List Frame) : (s.setInbound fs).params = s.params := rfl
@[simp] theorem setInbound_txTotalLen (fs : List Frame) : (s.setInbound fs).txTotalLen = s.txTotalLen := rfl
@[simp] theorem setInbound_txSentOffset (fs : List Frame) : (s.setInbound fs).txSentOffset = s.txSentOffset := rfl
@[simp] theorem setInbound_pendingBuffer (fs : List Frame) : (s.setInbound fs).pendingBuffer = s.pendingBuffer := rfl
@[simp] theorem setInbound_rxReceivedLen (fs : List Frame) : (s.setInbound fs).rxReceivedLen = s.rxReceivedLen := rfl
@[simp] theorem setInbound_reassemblyBuffer (fs : List Frame) : (s.setInbound fs).reassemblyBuffer = s.reassemblyBuffer := rfl
@[simp] theorem setInbound_cbValid (fs : List Frame) : (s.setInbound fs).cbValid = s.cbValid := rfl
@[simp] theorem setInbound_cbHandler (fs : List Frame) : (s.setInbound fs).cbHandler = s.cbHandler := rfl
@[simp] theorem setInbound_inputs (fs : List Frame) : (s.setInbound fs).inputs = s.inputs := rfl
@[simp] theorem setInbound_linkAnswers (fs : List Frame) : (s.setInbound fs).linkAnswers = s.linkAnswers := rfl
@[simp] theorem setInbound_linkWrites (fs : List Frame) : (s.setInbound fs).linkWrites = s.linkWrites := rfl
@[simp] theorem setInbound_inbound (fs : List Frame) : (s.setInbound fs).inbound = fs := rfl
@[simp] theorem setInbound_trace (fs : List Frame) : (s.setInbound fs).trace = s.trace := rfl
@[simp] theorem setInbound_outcomes (fs : List Frame) : (s.setInbound fs).outcomes = s.outcomes := rfl

/-! ### `setInputs` -/

@[simp] theorem setInputs_params (is : List HostInput) : (s.setInputs is).params = s.params := rfl
@[simp] theorem setInputs_txTotalLen (is : List HostInput) : (s.setInputs is).txTotalLen = s.txTotalLen := rfl
@[simp] theorem setInputs_txSentOffset (is : List HostInput) : (s.setInputs is).txSentOffset = s.txSentOffset := rfl
@[simp] theorem setInputs_pendingBuffer (is : List HostInput) : (s.setInputs is).pendingBuffer = s.pendingBuffer := rfl
@[simp] theorem setInputs_rxReceivedLen (is : List HostInput) : (s.setInputs is).rxReceivedLen = s.rxReceivedLen := rfl
@[simp] theorem setInputs_reassemblyBuffer (is : List HostInput) : (s.setInputs is).reassemblyBuffer = s.reassemblyBuffer := rfl
@[simp] theorem setInputs_cbValid (is : List HostInput) : (s.setInputs is).cbValid = s.cbValid := rfl
@[simp] theorem setInputs_cbHandler (is : List HostInput) : (s.setInputs is).cbHandler = s.cbHandler := rfl
@[simp] theorem setInputs_inputs (is : List HostInput) : (s.setInputs is).inputs = is := rfl
@[simp] theorem setInputs_linkAnswers (is : List HostInput) : (s.setInputs is).linkAnswers = s.linkAnswers := rfl
@[simp] theorem setInputs_linkWrites (is : List HostInput) : (s.setInputs is).linkWrites = s.linkWrites := rfl
@[simp] theorem setInputs_inbound (is : List HostInput) : (s.setInputs is).inbound = s.inbound := rfl
@[simp] theorem setInputs_trace (is : List HostInput) : (s.setInputs is).trace = s.trace := rfl
@[simp] theorem setInputs_outcomes (is : List HostInput) : (s.setInputs is).outcomes = s.outcomes := rfl

/-! ### `storePending` -/

@[simp] theorem storePending_params (bs : List Byte) : (storePending s bs).params = s.params := rfl
@[simp] theorem storePending_txTotalLen (bs : List Byte) : (storePending s bs).txTotalLen = s.txTotalLen := rfl
@[simp] theorem storePending_txSentOffset (bs : List Byte) : (storePending s bs).txSentOffset = s.txSentOffset := rfl
@[simp] theorem storePending_pendingBuffer (bs : List Byte) : (storePending s bs).pendingBuffer = Memory.putBytes s.pendingBuffer 0 bs := rfl
@[simp] theorem storePending_rxReceivedLen (bs : List Byte) : (storePending s bs).rxReceivedLen = s.rxReceivedLen := rfl
@[simp] theorem storePending_reassemblyBuffer (bs : List Byte) : (storePending s bs).reassemblyBuffer = s.reassemblyBuffer := rfl
@[simp] theorem storePending_cbValid (bs : List Byte) : (storePending s bs).cbValid = s.cbValid := rfl
@[simp] theorem storePending_cbHandler (bs : List Byte) : (storePending s bs).cbHandler = s.cbHandler := rfl
@[simp] theorem storePending_inputs (bs : List Byte) : (storePending s bs).inputs = s.inputs := rfl
@[simp] theorem storePending_linkAnswers (bs : List Byte) : (storePending s bs).linkAnswers = s.linkAnswers := rfl
@[simp] theorem storePending_linkWrites (bs : List Byte) : (storePending s bs).linkWrites = s.linkWrites := rfl
@[simp] theorem storePending_inbound (bs : List Byte) : (storePending s bs).inbound = s.inbound := rfl
@[simp] theorem storePending_trace (bs : List Byte) : (storePending s bs).trace = s.trace := rfl
@[simp] theorem storePending_outcomes (bs : List Byte) : (storePending s bs).outcomes = s.outcomes := rfl

/-! ### `storeReassembly` -/

@[simp] theorem storeReassembly_params (x : Nat) (bs : List Byte) : (storeReassembly s x bs).params = s.params := rfl
@[simp] theorem storeReassembly_txTotalLen (x : Nat) (bs : List Byte) : (storeReassembly s x bs).txTotalLen = s.txTotalLen := rfl
@[simp] theorem storeReassembly_txSentOffset (x : Nat) (bs : List Byte) : (storeReassembly s x bs).txSentOffset = s.txSentOffset := rfl
@[simp] theorem storeReassembly_pendingBuffer (x : Nat) (bs : List Byte) : (storeReassembly s x bs).pendingBuffer = s.pendingBuffer := rfl
@[simp] theorem storeReassembly_rxReceivedLen (x : Nat) (bs : List Byte) : (storeReassembly s x bs).rxReceivedLen = s.rxReceivedLen := rfl
@[simp] theorem storeReassembly_reassemblyBuffer (x : Nat) (bs : List Byte) : (storeReassembly s x bs).reassemblyBuffer = Memory.putBytes s.reassemblyBuffer x bs := rfl
@[simp] theorem storeReassembly_cbValid (x : Nat) (bs : List Byte) : (storeReassembly s x bs).cbValid = s.cbValid := rfl
@[simp] theorem storeReassembly_cbHandler (x : Nat) (bs : List Byte) : (storeReassembly s x bs).cbHandler = s.cbHandler := rfl
@[simp] theorem storeReassembly_inputs (x : Nat) (bs : List Byte) : (storeReassembly s x bs).inputs = s.inputs := rfl
@[simp] theorem storeReassembly_linkAnswers (x : Nat) (bs : List Byte) : (storeReassembly s x bs).linkAnswers = s.linkAnswers := rfl
@[simp] theorem storeReassembly_linkWrites (x : Nat) (bs : List Byte) : (storeReassembly s x bs).linkWrites = s.linkWrites := rfl
@[simp] theorem storeReassembly_inbound (x : Nat) (bs : List Byte) : (storeReassembly s x bs).inbound = s.inbound := rfl
@[simp] theorem storeReassembly_trace (x : Nat) (bs : List Byte) : (storeReassembly s x bs).trace = s.trace := rfl
@[simp] theorem storeReassembly_outcomes (x : Nat) (bs : List Byte) : (storeReassembly s x bs).outcomes = s.outcomes := rfl

/-! ### `assertReset` -/

@[simp] theorem assertReset_params : (assertReset s).params = s.params := rfl
@[simp] theorem assertReset_txTotalLen : (assertReset s).txTotalLen = 0 := rfl
@[simp] theorem assertReset_txSentOffset : (assertReset s).txSentOffset = 0 := rfl
@[simp] theorem assertReset_pendingBuffer : (assertReset s).pendingBuffer = s.pendingBuffer := rfl
@[simp] theorem assertReset_rxReceivedLen : (assertReset s).rxReceivedLen = 0 := rfl
@[simp] theorem assertReset_reassemblyBuffer : (assertReset s).reassemblyBuffer = s.reassemblyBuffer := rfl
@[simp] theorem assertReset_cbValid : (assertReset s).cbValid = false := rfl
@[simp] theorem assertReset_cbHandler : (assertReset s).cbHandler = s.cbHandler := rfl
@[simp] theorem assertReset_inputs : (assertReset s).inputs = s.inputs := rfl
@[simp] theorem assertReset_linkAnswers : (assertReset s).linkAnswers = s.linkAnswers := rfl
@[simp] theorem assertReset_linkWrites : (assertReset s).linkWrites = s.linkWrites := rfl
@[simp] theorem assertReset_inbound : (assertReset s).inbound = s.inbound := rfl
@[simp] theorem assertReset_trace : (assertReset s).trace = s.trace := rfl
@[simp] theorem assertReset_outcomes : (assertReset s).outcomes = s.outcomes := rfl

/-! ### `receiveOnLink` -/

@[simp] theorem receiveOnLink_params (f : Frame) : (receiveOnLink f s).params = s.params := rfl
@[simp] theorem receiveOnLink_txTotalLen (f : Frame) : (receiveOnLink f s).txTotalLen = s.txTotalLen := rfl
@[simp] theorem receiveOnLink_txSentOffset (f : Frame) : (receiveOnLink f s).txSentOffset = s.txSentOffset := rfl
@[simp] theorem receiveOnLink_pendingBuffer (f : Frame) : (receiveOnLink f s).pendingBuffer = s.pendingBuffer := rfl
@[simp] theorem receiveOnLink_rxReceivedLen (f : Frame) : (receiveOnLink f s).rxReceivedLen = s.rxReceivedLen := rfl
@[simp] theorem receiveOnLink_reassemblyBuffer (f : Frame) : (receiveOnLink f s).reassemblyBuffer = s.reassemblyBuffer := rfl
@[simp] theorem receiveOnLink_cbValid (f : Frame) : (receiveOnLink f s).cbValid = s.cbValid := rfl
@[simp] theorem receiveOnLink_cbHandler (f : Frame) : (receiveOnLink f s).cbHandler = s.cbHandler := rfl
@[simp] theorem receiveOnLink_inputs (f : Frame) : (receiveOnLink f s).inputs = s.inputs := rfl
@[simp] theorem receiveOnLink_linkAnswers (f : Frame) : (receiveOnLink f s).linkAnswers = s.linkAnswers := rfl
@[simp] theorem receiveOnLink_linkWrites (f : Frame) : (receiveOnLink f s).linkWrites = s.linkWrites := rfl
@[simp] theorem receiveOnLink_inbound (f : Frame) : (receiveOnLink f s).inbound = s.inbound ++ [f] := rfl
@[simp] theorem receiveOnLink_trace (f : Frame) : (receiveOnLink f s).trace = s.trace := rfl
@[simp] theorem receiveOnLink_outcomes (f : Frame) : (receiveOnLink f s).outcomes = s.outcomes := rfl

/-! ### `linkSend` -/

@[simp] theorem linkSend_params (f : Frame) : (linkSend f s).params = s.params := rfl
@[simp] theorem linkSend_txTotalLen (f : Frame) : (linkSend f s).txTotalLen = s.txTotalLen := rfl
@[simp] theorem linkSend_txSentOffset (f : Frame) : (linkSend f s).txSentOffset = s.txSentOffset := rfl
@[simp] theorem linkSend_pendingBuffer (f : Frame) : (linkSend f s).pendingBuffer = s.pendingBuffer := rfl
@[simp] theorem linkSend_rxReceivedLen (f : Frame) : (linkSend f s).rxReceivedLen = s.rxReceivedLen := rfl
@[simp] theorem linkSend_reassemblyBuffer (f : Frame) : (linkSend f s).reassemblyBuffer = s.reassemblyBuffer := rfl
@[simp] theorem linkSend_cbValid (f : Frame) : (linkSend f s).cbValid = s.cbValid := rfl
@[simp] theorem linkSend_cbHandler (f : Frame) : (linkSend f s).cbHandler = s.cbHandler := rfl
@[simp] theorem linkSend_inputs (f : Frame) : (linkSend f s).inputs = s.inputs := rfl
@[simp] theorem linkSend_linkAnswers (f : Frame) : (linkSend f s).linkAnswers = s.linkAnswers.tail := rfl
@[simp] theorem linkSend_linkWrites (f : Frame) : (linkSend f s).linkWrites = s.linkWrites + 1 := rfl
@[simp] theorem linkSend_inbound (f : Frame) : (linkSend f s).inbound = s.inbound := rfl
@[simp] theorem linkSend_trace (f : Frame) : (linkSend f s).trace = s.trace ++ [.linkStop, .linkWrite f, .linkResume] := rfl
@[simp] theorem linkSend_outcomes (f : Frame) : (linkSend f s).outcomes = s.outcomes := rfl

/-! ### `complete` -/

@[simp] theorem complete_params : (complete s).params = s.params := by
  unfold complete
  split <;> rfl
@[simp] theorem complete_txTotalLen : (complete s).txTotalLen = s.txTotalLen := by
  unfold complete
  split <;> rfl
@[simp] theorem complete_txSentOffset : (complete s).txSentOffset = s.txSentOffset := by
  unfold complete
  split <;> rfl
@[simp] theorem complete_pendingBuffer : (complete s).pendingBuffer = s.pendingBuffer := by
  unfold complete
  split <;> rfl
@[simp] theorem complete_rxReceivedLen : (complete s).rxReceivedLen = 0 := rfl
@[simp] theorem complete_reassemblyBuffer : (complete s).reassemblyBuffer = s.reassemblyBuffer := by
  unfold complete
  split <;> rfl
@[simp] theorem complete_cbValid : (complete s).cbValid = s.cbValid := by
  unfold complete
  split <;> rfl
@[simp] theorem complete_cbHandler : (complete s).cbHandler = s.cbHandler := by
  unfold complete
  split <;> rfl
@[simp] theorem complete_inputs : (complete s).inputs = s.inputs := by
  unfold complete
  split <;> rfl
@[simp] theorem complete_linkAnswers : (complete s).linkAnswers = s.linkAnswers := by
  unfold complete
  split <;> rfl
@[simp] theorem complete_linkWrites : (complete s).linkWrites = s.linkWrites := by
  unfold complete
  split <;> rfl
@[simp] theorem complete_inbound : (complete s).inbound = s.inbound := by
  unfold complete
  split <;> rfl
theorem complete_trace :
    (complete s).trace = s.trace ++ doneEvents s s.rxReceivedLen (snapshot s) := by
  unfold complete doneEvents
  split <;> simp
@[simp] theorem complete_outcomes : (complete s).outcomes = s.outcomes := by
  unfold complete
  split <;> rfl

end Sys2Proof.Machine
end

