-- ==== Sys2Proof/Laws/Memory.lean ====
section
/-! SUPPORT. The laws of memories: read after write, and the canonical form that every memory operation keeps. -/

namespace Sys2Proof.Machine

variable (m : Memory) (x y : Nat) (v : Byte)

theorem cellAt_put_same : Memory.cellAt (Memory.put m x v) x = some v := by
  induction m with
  | nil => simp [Memory.put, Memory.cellAt]
  | cons c m ih =>
    obtain ⟨a, b⟩ := c
    by_cases h1 : x < a
    · simp [Memory.put, Memory.cellAt, h1]
    · by_cases h2 : x = a
      · simp [Memory.put, Memory.cellAt, h2]
      · have h3 : ¬a = x := fun h => h2 h.symm
        simp [Memory.put, Memory.cellAt, h1, h2, h3, ih]

theorem cellAt_put_other (h : y ≠ x) : Memory.cellAt (Memory.put m x v) y = Memory.cellAt m y := by
  have h' : ¬x = y := fun e => h e.symm
  induction m with
  | nil => simp [Memory.put, Memory.cellAt, h']
  | cons c m ih =>
    obtain ⟨a, b⟩ := c
    by_cases h1 : x < a
    · simp [Memory.put, Memory.cellAt, h1, h']
    · by_cases h2 : x = a
      · subst h2; simp [Memory.put, Memory.cellAt, h']
      · simp [Memory.put, Memory.cellAt, h1, h2, ih]

/-- Outside the bytes written, a memory reads as before. -/
theorem cellAt_putBytes_outside (bs : List Byte) (h : y < x ∨ x + bs.length ≤ y) :
    Memory.cellAt (Memory.putBytes m x bs) y = Memory.cellAt m y := by
  induction bs generalizing m x with
  | nil => rfl
  | cons b bs ih =>
    simp only [List.length_cons] at h
    rw [Memory.putBytes, ih _ _ (by omega), cellAt_put_other _ _ _ _ (by omega)]

/-- Inside the bytes written, a memory reads as what was written. -/
theorem cellAt_putBytes_inside (bs : List Byte) (i : Nat) (h : i < bs.length) :
    Memory.cellAt (Memory.putBytes m x bs) (x + i) = some bs[i] := by
  induction bs generalizing m x i with
  | nil => simp at h
  | cons b bs ih =>
    rw [Memory.putBytes]
    cases i with
    | zero =>
      rw [cellAt_putBytes_outside _ _ _ _ (by omega)]
      exact cellAt_put_same _ _ _
    | succ i =>
      have := ih (Memory.put m x b) (x + 1) i (by simpa using h)
      simpa [Nat.add_assoc, Nat.add_comm 1 i] using this

theorem byteAt_putBytes_outside (sp : MemSpace) (bs : List Byte) (h : y < x ∨ x + bs.length ≤ y) :
    byteAt sp (Memory.putBytes m x bs) y = byteAt sp m y := by
  simp [byteAt, cellAt_putBytes_outside _ _ _ _ h]

theorem byteAt_putBytes_inside (sp : MemSpace) (bs : List Byte) (i : Nat) (h : i < bs.length) :
    byteAt sp (Memory.putBytes m x bs) (x + i) = bs[i] := by
  simp [byteAt, cellAt_putBytes_inside _ _ _ _ h]

/-! ### The canonical form -/

theorem risingFrom_put (lo : Nat) (h : Memory.risingFrom lo m = true) (hx : lo ≤ x) :
    Memory.risingFrom lo (Memory.put m x v) = true := by
  induction m generalizing lo with
  | nil => simp [Memory.put, Memory.risingFrom, hx]
  | cons c m ih =>
    obtain ⟨a, b⟩ := c
    simp only [Memory.risingFrom, Bool.and_eq_true, decide_eq_true_eq] at h
    by_cases h1 : x < a
    · simp [Memory.put, Memory.risingFrom, h1, hx, h.2]
    · by_cases h2 : x = a
      · subst h2; simp [Memory.put, Memory.risingFrom, h.1, h.2]
      · simp [Memory.put, Memory.risingFrom, h1, h2, h.1]
        exact ih _ h.2 (by omega)

theorem put_keeps_wf (h : Memory.wf m = true) : Memory.wf (Memory.put m x v) = true :=
  risingFrom_put m x v 0 h (Nat.zero_le x)

theorem putBytes_keeps_wf (bs : List Byte) (h : Memory.wf m = true) : Memory.wf (Memory.putBytes m x bs) = true := by
  induction bs generalizing m x with
  | nil => exact h
  | cons b bs ih => exact ih _ _ (put_keeps_wf m x b h)

theorem put_keeps_within (size : Nat) (h : Memory.within m size = true) (hx : x < size) :
    Memory.within (Memory.put m x v) size = true := by
  induction m with
  | nil => simp [Memory.put, Memory.within, hx]
  | cons c m ih =>
    obtain ⟨a, b⟩ := c
    simp only [Memory.within, List.all_cons, Bool.and_eq_true, decide_eq_true_eq] at h ih
    by_cases h1 : x < a
    · simp [Memory.put, Memory.within, h1, hx, h.1, -List.all_eq_true]
      exact h.2
    · by_cases h2 : x = a
      · subst h2; simp [Memory.put, Memory.within, h.1, -List.all_eq_true]; exact h.2
      · simp [Memory.put, Memory.within, h1, h2, h.1, -List.all_eq_true]; exact ih h.2

theorem putBytes_keeps_within (size : Nat) (bs : List Byte) (h : Memory.within m size = true)
    (hx : x + bs.length ≤ size) : Memory.within (Memory.putBytes m x bs) size = true := by
  induction bs generalizing m x with
  | nil => exact h
  | cons b bs ih =>
    simp only [List.length_cons] at hx
    exact ih _ _ (put_keeps_within m x b size h (by omega)) (by omega)

theorem reset_pending_wf : Memory.wf State.reset.pendingBuffer = true := rfl

theorem reset_reassembly_wf : Memory.wf State.reset.reassemblyBuffer = true := rfl

/-- In canonical form, two memories that list the same byte at every address are the same data. -/
theorem eq_of_cellAt_eq {m m' : Memory} (h : Memory.wf m = true) (h' : Memory.wf m' = true)
    (heq : ∀ x, Memory.cellAt m x = Memory.cellAt m' x) : m = m' := by
  have below : ∀ (m : Memory) (lo x : Nat), Memory.risingFrom lo m = true → x < lo → Memory.cellAt m x = none := by
    intro m
    induction m with
    | nil => intros; rfl
    | cons c m ih =>
      obtain ⟨a, b⟩ := c
      intro lo x hr hx
      simp only [Memory.risingFrom, Bool.and_eq_true, decide_eq_true_eq] at hr
      have : ¬a = x := by omega
      simp only [Memory.cellAt, this, if_false]
      exact ih _ _ hr.2 (by omega)
  suffices hs : ∀ (m m' : Memory) (lo : Nat), Memory.risingFrom lo m = true → Memory.risingFrom lo m' = true →
      (∀ x, Memory.cellAt m x = Memory.cellAt m' x) → m = m' from hs m m' 0 h h' heq
  intro m
  induction m with
  | nil =>
    intro m' lo _ _ he
    cases m' with
    | nil => rfl
    | cons c m' => simpa [Memory.cellAt] using he c.1
  | cons c m ih =>
    obtain ⟨a, b⟩ := c
    intro m' lo hr hr' he
    simp only [Memory.risingFrom, Bool.and_eq_true, decide_eq_true_eq] at hr
    cases m' with
    | nil => simpa [Memory.cellAt] using he a
    | cons c' m' =>
      obtain ⟨a', b'⟩ := c'
      simp only [Memory.risingFrom, Bool.and_eq_true, decide_eq_true_eq] at hr'
      have ha : a = a' := by
        rcases Nat.lt_trichotomy a a' with h | h | h
        · have hx := he a
          have hn : ¬a' = a := by omega
          simp only [Memory.cellAt, hn, if_true, if_false] at hx
          rw [below m' (a' + 1) a hr'.2 (by omega)] at hx
          exact absurd hx (by simp)
        · exact h
        · have hx := he a'
          have hn : ¬a = a' := by omega
          simp only [Memory.cellAt, hn, if_true, if_false] at hx
          rw [below m (a + 1) a' hr.2 (by omega)] at hx
          exact absurd hx (by simp)
      subst ha
      have hb := he a
      simp only [Memory.cellAt, if_true, Option.some.injEq] at hb
      subst hb
      rw [ih m' (a + 1) hr.2 hr'.2 ?_]
      intro x
      by_cases hx : x = a
      · subst hx
        rw [below m (x + 1) x hr.2 (by omega), below m' (x + 1) x hr'.2 (by omega)]
      · have hn : ¬a = x := fun e => hx e.symm
        simpa [Memory.cellAt, hn] using he x

end Sys2Proof.Machine
end

