-- ==== Sys2Proof/Laws/Ops.lean ====
section
/-! SUPPORT. For each shared operation one lemma that says once everything it can do. Proofs cite these instead of unfolding. -/

namespace Sys2Proof.Machine

/-! ### Ends of operations -/

@[simp] theorem finish_eq (r : State × Report) : finish r = .next (r.1.report (.single r.2)) := rfl

@[simp] theorem endNormally_eq (s : State) : endNormally s = (s, ⟨.none, false⟩) := rfl

@[simp] theorem raiseCause_eq (c : Cause) (s : State) : raiseCause c s = (s, ⟨c, false⟩) := rfl

theorem endPacket_cases (isLast : Bool) (c : Cause) (s : State) :
    (isLast = true ∧ endPacket isLast c s = (complete s, ⟨c, true⟩)) ∨
    (isLast = false ∧ endPacket isLast c s = (s, ⟨c, false⟩)) := by
  cases isLast <;> simp [endPacket]

theorem rxState_eq_receiving (s : State) : rxState s = .receiving ↔ s.rxReceivedLen ≠ 0 := by
  by_cases h : s.rxReceivedLen = 0 <;> simp [rxState, h]

theorem txActive_eq_true (s : State) : txActive s = true ↔ s.txTotalLen ≠ 0 := by simp [txActive]

/-! ### The receive side -/

/-- Everything `handleInit` can do (R83). -/
theorem handleInit_cases (isLast : Bool) (n : Byte) (d : List Byte) (s : State) :
    (s.rxReceivedLen ≠ 0 ∧ handleInit isLast n d s = endPacket isLast .concurrentTransferRejected s) ∨
    (s.rxReceivedLen = 0 ∧ n.toNat ≤ s.params.maxBufferSize ∧
      handleInit isLast n d s =
        endPacket isLast .none ((storeReassembly s 0 (d.take n.toNat)).setRx (zext16 n))) ∨
    (s.rxReceivedLen = 0 ∧ s.params.maxBufferSize < n.toNat ∧
      handleInit isLast n d s = endPacket isLast .bufferOverflow s) := by
  unfold handleInit
  by_cases h : s.rxReceivedLen = 0
  · have hr : rxState s ≠ .receiving := by rw [Ne, rxState_eq_receiving]; simpa using h
    by_cases hn : n.toNat ≤ s.params.maxBufferSize
    · simp [h, hr, hn]
    · simp [h, hr, hn, Nat.lt_of_not_le hn]
  · have hr : rxState s = .receiving := (rxState_eq_receiving s).2 h
    exact Or.inl ⟨h, by simp [hr]⟩

/-- Everything `handleData` can do (R84). -/
theorem handleData_cases (isLast : Bool) (k n : Byte) (d : List Byte) (s : State) :
    (fragmentFits s.params k n = true ∧
      handleData isLast k n d s =
        endPacket isLast .none
          ((storeReassembly s (fragmentOffset s.params k.toNat) (d.take n.toNat)).setRx
            (satAdd16 s.rxReceivedLen n))) ∨
    (fragmentFits s.params k n = false ∧ handleData isLast k n d s = endPacket isLast .bufferOverflow s) := by
  unfold handleData
  cases h : fragmentFits s.params k n <;> simp

/-- Everything `receivePacket` can do (R82). -/
theorem receivePacket_cases (p : Packet) (s : State) :
    (packetValid p = false ∧ receivePacket p s = (s, ⟨.checksumMismatch, false⟩)) ∨
    (packetValid p = true ∧ ∃ l c a q n d, p = .init l c a q n d ∧ receivePacket p s = handleInit l n d s) ∨
    (packetValid p = true ∧ ∃ l c k n d, p = .data l c k n d ∧ receivePacket p s = handleData l k n d s) := by
  unfold receivePacket
  cases h : packetValid p
  · simp
  · cases p <;> simp

/-- Everything `receiveFrame` can do (R82). -/
theorem receiveFrame_cases (f : Frame) (s : State) :
    (∃ e, decodeFrame s.params f = .error e ∧ receiveFrame f s = (s, ⟨.malformedFrame, false⟩)) ∨
    (∃ p, decodeFrame s.params f = .ok p ∧ receiveFrame f s = receivePacket p s) := by
  unfold receiveFrame
  cases h : decodeFrame s.params f <;> simp

/-- What the reassembler leaves alone (R29), whatever it received. -/
theorem endPacket_frame (isLast : Bool) (c : Cause) (s : State) :
    (endPacket isLast c s).1.params = s.params ∧ (endPacket isLast c s).1.txTotalLen = s.txTotalLen ∧
    (endPacket isLast c s).1.txSentOffset = s.txSentOffset ∧
    (endPacket isLast c s).1.pendingBuffer = s.pendingBuffer ∧
    (endPacket isLast c s).1.reassemblyBuffer = s.reassemblyBuffer ∧
    (endPacket isLast c s).1.cbValid = s.cbValid ∧ (endPacket isLast c s).1.cbHandler = s.cbHandler ∧
    (endPacket isLast c s).1.inputs = s.inputs ∧ (endPacket isLast c s).1.linkAnswers = s.linkAnswers ∧
    (endPacket isLast c s).1.linkWrites = s.linkWrites ∧ (endPacket isLast c s).1.inbound = s.inbound ∧
    (endPacket isLast c s).1.outcomes = s.outcomes := by
  cases isLast <;> simp [endPacket]

/-- Everything the processing of a packet can do, in one list: at most one store, a new receive length, and `complete`. -/
theorem receivePacket_effect (p : Packet) (s : State) :
    ∃ x bs len isLast c,
      (receivePacket p s = (s, ⟨.checksumMismatch, false⟩) ∨
       receivePacket p s = endPacket isLast c s ∨
       receivePacket p s = endPacket isLast c ((storeReassembly s x bs).setRx len) ∧
         x + bs.length ≤ s.params.maxBufferSize) := by
  rcases receivePacket_cases p s with ⟨-, h⟩ | ⟨-, l, ck, a, q, n, d, -, h⟩ | ⟨-, l, ck, k, n, d, -, h⟩
  · exact ⟨0, [], 0, false, .none, Or.inl h⟩
  · rcases handleInit_cases l n d s with ⟨-, e⟩ | ⟨-, hn, e⟩ | ⟨-, -, e⟩
    · exact ⟨0, [], 0, l, _, Or.inr (Or.inl (h.trans e))⟩
    · refine ⟨0, d.take n.toNat, zext16 n, l, _, Or.inr (Or.inr ⟨h.trans e, ?_⟩)⟩
      simp only [List.length_take]; omega
    · exact ⟨0, [], 0, l, _, Or.inr (Or.inl (h.trans e))⟩
  · rcases handleData_cases l k n d s with ⟨hf, e⟩ | ⟨-, e⟩
    · refine ⟨_, d.take n.toNat, _, l, _, Or.inr (Or.inr ⟨h.trans e, ?_⟩)⟩
      simp only [fragmentFits, decide_eq_true_eq] at hf
      simp only [List.length_take]; omega
    · exact ⟨0, [], 0, l, _, Or.inr (Or.inl (h.trans e))⟩

/-! ### The transmit side -/

/-- Everything `afterWrite` can do (R73, R75, R77). -/
theorem afterWrite_cases (ok : Bool) (g : State → State) (s : State) :
    (ok = true ∧ afterWrite ok g s = (g s, ⟨.none, false⟩)) ∨
    (ok = false ∧ afterWrite ok g s = (s.setTx 0 0, ⟨.transmitFailure, false⟩)) := by
  cases ok <;> simp [afterWrite]

/-- Everything `sendMessage` can do (R73). -/
theorem sendMessage_cases (a : Address) (q : Port) (size : Len) (d : List Byte) (s : State) :
    (s.txTotalLen ≠ 0 ∧ sendMessage a q size d s = (s, ⟨.txBusy, false⟩)) ∨
    (s.txTotalLen = 0 ∧ s.params.maxBufferSize < size.toNat ∧ sendMessage a q size d s = (s, ⟨.txSize, false⟩)) ∨
    (s.txTotalLen = 0 ∧ size.toNat ≤ s.params.maxBufferSize ∧
      sendMessage a q size d s =
        afterWrite (linkAnswer s) id
          (linkSend (encodePacket (sealPacket (messageInit s.params a q size d))) (createSession size d s))) := by
  unfold sendMessage
  by_cases h : s.txTotalLen = 0
  · have hb : txActive s = false := by simp [txActive, h]
    by_cases hn : s.params.maxBufferSize < size.toNat
    · simp [h, hb, hn]
    · simp [h, hb, hn, Nat.le_of_not_lt hn]
  · have hb : txActive s = true := (txActive_eq_true s).2 h
    exact Or.inl ⟨h, by simp [hb]⟩

/-- Everything `pumpFragment` can do (R75). -/
theorem pumpFragment_cases (s : State) :
    (s.txTotalLen = 0 ∧ pumpFragment s = .ok (s, ⟨.none, false⟩)) ∨
    (s.txTotalLen ≠ 0 ∧ s.params.pendingSize < s.txSentOffset.toNat + nextLength s ∧
      pumpFragment s = .error (.outsideMemory .pendingBuffer s.txSentOffset.toNat (nextLength s))) ∨
    (s.txTotalLen ≠ 0 ∧ s.txSentOffset.toNat + nextLength s ≤ s.params.pendingSize ∧
      pumpFragment s =
        .ok (afterWrite (linkAnswer s) (advance s.txTotalLen s.txSentOffset (nextIsLast s) (nextLength s))
          (linkSend
            (encodePacket (sealPacket (nextPacket s
              ((List.range (nextLength s)).map fun i => pendingByte s (s.txSentOffset.toNat + i))))) s))) := by
  unfold pumpFragment readPending
  by_cases h : s.txTotalLen = 0
  · have hb : txActive s = false := by simp [txActive, h]
    simp [h, hb]
  · have hb : txActive s = true := (txActive_eq_true s).2 h
    by_cases hn : s.txSentOffset.toNat + nextLength s ≤ s.params.pendingSize
    · exact Or.inr (Or.inr ⟨h, hn, by simp [hb, hn]⟩)
    · exact Or.inr (Or.inl ⟨h, Nat.lt_of_not_le hn, by simp [hb, hn]⟩)

/-- A session that meets the invariant never reads outside the pending buffer. -/
theorem nextLength_le (s : State) (h : s.Inv) : s.txSentOffset.toNat + nextLength s ≤ s.params.pendingSize := by
  have h1 := h.totalBound
  by_cases h0 : s.txTotalLen = 0
  · have := h.idleOffset h0
    simp [nextLength, h0, this]
  · have h2 := h.offsetBound h0
    simp only [nextLength]
    omega

/-! ### `tick` and `step` -/

/-- Everything the poll half of `tick` can do (R97, R99). -/
theorem pollAndReceive_cases (s : State) :
    (s.inbound = [] ∧ pollAndReceive s = (s.setInbound [], ⟨.none, false⟩)) ∨
    (∃ fs f, s.inbound = fs ++ [f] ∧ pollAndReceive s = receiveFrame f (s.setInbound [])) := by
  unfold pollAndReceive pollFrame
  rcases List.eq_nil_or_concat s.inbound with h | ⟨fs, f, h⟩
  · simp [h]
  · refine Or.inr ⟨fs, f, by simpa using h, ?_⟩
    rw [h]; simp

/-- The pump half of `tick` is `pumpPendingFragment` (R99). -/
theorem pumpIfActive_eq (s : State) : pumpIfActive s = pumpFragment s := by
  unfold pumpIfActive
  cases h : txActive s
  · simp [pumpFragment, h]
  · simp

/-- Everything `tick` can do (R99). -/
theorem execTick_cases (s : State) :
    (∃ e, pumpFragment s = .error e ∧ execTick s = .fault e) ∨
    (∃ t r, pumpFragment s = .ok (t, r) ∧
      execTick s = .next ((pollAndReceive t).1.report (.tick r (pollAndReceive t).2))) := by
  unfold execTick
  rw [pumpIfActive_eq]
  cases h : pumpFragment s with
  | error e => exact Or.inl ⟨e, rfl, rfl⟩
  | ok r => exact Or.inr ⟨r.1, r.2, rfl, rfl⟩

/-- Everything a step can do. -/
theorem step_cases (s : State) :
    (s.inputs = [] ∧ step s = .next s) ∨
    (∃ rest, s.inputs = .reset :: rest ∧ step s = .next (assertReset (s.setInputs rest))) ∨
    (∃ f rest, s.inputs = .frameArrives f :: rest ∧ step s = .next (receiveOnLink f (s.setInputs rest))) ∨
    (∃ w rest i, s.inputs = .word w :: rest ∧ decode s.params w = .ok i ∧ step s = exec i (s.setInputs rest)) ∨
    (∃ w rest e, s.inputs = .word w :: rest ∧ decode s.params w = .error e ∧
      step s = rejectWord e (s.setInputs rest)) := by
  unfold step
  rcases h : s.inputs with _ | ⟨input, rest⟩
  · exact Or.inl ⟨rfl, rfl⟩
  · cases input with
    | reset => exact Or.inr (Or.inl ⟨rest, rfl, rfl⟩)
    | frameArrives f => exact Or.inr (Or.inr (Or.inl ⟨f, rest, rfl, rfl⟩))
    | word w =>
      cases hd : decode s.params w with
      | ok i => exact Or.inr (Or.inr (Or.inr (Or.inl ⟨w, rest, i, rfl, hd, by simp [takeInput, runWord, hd]⟩)))
      | error e => exact Or.inr (Or.inr (Or.inr (Or.inr ⟨w, rest, e, rfl, hd, by simp [takeInput, runWord, hd]⟩)))

/-! ### The meanings as equations -/

theorem exec_packet (p : Packet) (s : State) :
    exec p.toInstr s = .next ((receivePacket p s).1.report (.single (receivePacket p s).2)) := by
  cases p with
  | init l => cases l <;> rfl
  | data l => cases l <;> rfl

theorem exec_onPacketReceived (f : Frame) (s : State) :
    exec (.onPacketReceived f) s = .next ((receiveFrame f s).1.report (.single (receiveFrame f s).2)) := rfl

theorem exec_sendMessage (a : Address) (q : Port) (size : Len) (d : List Byte) (s : State) :
    exec (.sendMessage a q size d) s =
      .next ((sendMessage a q size d s).1.report (.single (sendMessage a q size d s).2)) := rfl

theorem exec_pumpPendingFragment (s : State) :
    exec .pumpPendingFragment s =
      match pumpFragment s with
      | .error e => .fault e
      | .ok r => .next (r.1.report (.single r.2)) := rfl

theorem exec_setCompletionHandler (h : Nat) (s : State) :
    exec (.setCompletionHandler h) s =
      .next ((s.setHandler true (h % 2 ^ s.params.handlerW)).report (.single ⟨.none, false⟩)) := rfl

/-- What processing a packet leaves alone (R29). -/
theorem receivePacket_frame (p : Packet) (s : State) :
    (receivePacket p s).1.params = s.params ∧ (receivePacket p s).1.txTotalLen = s.txTotalLen ∧
    (receivePacket p s).1.txSentOffset = s.txSentOffset ∧
    (receivePacket p s).1.pendingBuffer = s.pendingBuffer ∧
    (receivePacket p s).1.cbValid = s.cbValid ∧ (receivePacket p s).1.cbHandler = s.cbHandler ∧
    (receivePacket p s).1.inputs = s.inputs ∧ (receivePacket p s).1.linkAnswers = s.linkAnswers ∧
    (receivePacket p s).1.linkWrites = s.linkWrites ∧ (receivePacket p s).1.inbound = s.inbound ∧
    (receivePacket p s).1.outcomes = s.outcomes := by
  obtain ⟨x, bs, len, l, c, h | h | ⟨h, -⟩⟩ := receivePacket_effect p s
  · simp [h]
  · have := endPacket_frame l c s
    simp [h, this]
  · have := endPacket_frame l c ((storeReassembly s x bs).setRx len)
    simp [h, this]

/-- What processing a frame leaves alone (R29). -/
theorem receiveFrame_frame (f : Frame) (s : State) :
    (receiveFrame f s).1.params = s.params ∧ (receiveFrame f s).1.txTotalLen = s.txTotalLen ∧
    (receiveFrame f s).1.txSentOffset = s.txSentOffset ∧
    (receiveFrame f s).1.pendingBuffer = s.pendingBuffer ∧
    (receiveFrame f s).1.cbValid = s.cbValid ∧ (receiveFrame f s).1.cbHandler = s.cbHandler ∧
    (receiveFrame f s).1.inputs = s.inputs ∧ (receiveFrame f s).1.linkAnswers = s.linkAnswers ∧
    (receiveFrame f s).1.linkWrites = s.linkWrites ∧ (receiveFrame f s).1.inbound = s.inbound ∧
    (receiveFrame f s).1.outcomes = s.outcomes := by
  rcases receiveFrame_cases f s with ⟨e, -, h⟩ | ⟨p, -, h⟩
  · simp [h]
  · rw [h]; exact receivePacket_frame p s

/-- What the creation of a session leaves alone (R29). -/
theorem createSession_frame (size : Len) (d : List Byte) (s : State) :
    (createSession size d s).params = s.params ∧ (createSession size d s).rxReceivedLen = s.rxReceivedLen ∧
    (createSession size d s).reassemblyBuffer = s.reassemblyBuffer ∧
    (createSession size d s).cbValid = s.cbValid ∧ (createSession size d s).cbHandler = s.cbHandler ∧
    (createSession size d s).inputs = s.inputs ∧ (createSession size d s).linkAnswers = s.linkAnswers ∧
    (createSession size d s).linkWrites = s.linkWrites ∧ (createSession size d s).inbound = s.inbound ∧
    (createSession size d s).outcomes = s.outcomes ∧ (createSession size d s).trace = s.trace := by
  unfold createSession
  split <;> simp

end Sys2Proof.Machine
end

