-- ==== Sys2Proof/Laws/PerInstr.lean ====
section
/-! SUPPORT. One family, proved once per constructor: what an instruction encodes to begins with its row of the opcode table
(spec 30_encoding.md R62), in that row's encoding space. -/

namespace Sys2Proof.Laws

/-- The encoding space of an instruction's row and the byte its `match` gives. -/
def tableHead : Instr → (List Byte → InstrWord) × Byte
  | .init .. => (.frame, 0x00)
  | .initL .. => (.frame, 0x02)
  | .data .. => (.frame, 0x01)
  | .dataL .. => (.frame, 0x03)
  | .sendMessage .. => (.command, 0x1)
  | .pumpPendingFragment => (.command, 0x2)
  | .onPacketReceived .. => (.command, 0x3)
  | .setCompletionHandler .. => (.command, 0x4)
  | .tick => (.command, 0x5)

/-- An instruction encodes to bytes of its row's space that begin with its row's byte. -/
def TableMatch.Statement (i : Instr) : Prop :=
  ∀ P : Params, ∃ rest, encode P i = (tableHead i).1 ((tableHead i).2 :: rest)

theorem TableMatch.init (checksum : Byte) (address : Address) (port : Port) (dataLen : Byte) (payload : List Byte) :
    TableMatch.Statement (.init checksum address port dataLen payload) := fun _ => ⟨_, rfl⟩

theorem TableMatch.initL (checksum : Byte) (address : Address) (port : Port) (dataLen : Byte) (payload : List Byte) :
    TableMatch.Statement (.initL checksum address port dataLen payload) := fun _ => ⟨_, rfl⟩

theorem TableMatch.data (checksum fragmentIndex dataLen : Byte) (payload : List Byte) :
    TableMatch.Statement (.data checksum fragmentIndex dataLen payload) := fun _ => ⟨_, rfl⟩

theorem TableMatch.dataL (checksum fragmentIndex dataLen : Byte) (payload : List Byte) :
    TableMatch.Statement (.dataL checksum fragmentIndex dataLen payload) := fun _ => ⟨_, rfl⟩

theorem TableMatch.sendMessage (address : Address) (port : Port) (size : Len) (payload : List Byte) :
    TableMatch.Statement (.sendMessage address port size payload) := fun _ => ⟨_, rfl⟩

theorem TableMatch.pumpPendingFragment : TableMatch.Statement .pumpPendingFragment := fun _ => ⟨_, rfl⟩

theorem TableMatch.onPacketReceived (rawBytes : Frame) : TableMatch.Statement (.onPacketReceived rawBytes) :=
  fun _ => ⟨_, rfl⟩

theorem TableMatch.setCompletionHandler (handler : Nat) : TableMatch.Statement (.setCompletionHandler handler) :=
  fun _ => ⟨_, rfl⟩

theorem TableMatch.tick : TableMatch.Statement .tick := fun _ => ⟨_, rfl⟩

end Sys2Proof.Laws
end

