-- ==== Sys2Proof/Tests/Slice0.lean ====
section
/-! SUPPORT. The model's own tests: ill-formed terms that WellFormed refuses, words written out from the spec's encodings, one or
two small vectors per instruction (spec/95_test_vectors.md), and for every statement with hypotheses a state that meets them. -/

namespace Sys2Proof.Tests

open Sys2Proof.Machine

/-! ### WellFormed refuses ill-formed terms -/

theorem wf_refuses_init_above_capacity : (Instr.init 0 0 0 25 (List.replicate 25 0)).wf Params.ref = false := by decide
theorem wf_refuses_init_length : (Instr.init 0 0 0 2 [1]).wf Params.ref = false := by decide
theorem wf_refuses_initL_above_capacity : (Instr.initL 0 0 0 25 (List.replicate 25 0)).wf Params.ref = false := by decide
theorem wf_refuses_initL_length : (Instr.initL 0 0 0 0 [1]).wf Params.ref = false := by decide
theorem wf_refuses_data_above_capacity : (Instr.data 0 0 29 (List.replicate 29 0)).wf Params.ref = false := by decide
theorem wf_refuses_data_length : (Instr.data 0 0 3 [1, 2]).wf Params.ref = false := by decide
theorem wf_refuses_dataL_above_capacity : (Instr.dataL 0 0 29 (List.replicate 29 0)).wf Params.ref = false := by decide
theorem wf_refuses_dataL_length : (Instr.dataL 0 0 0 [1]).wf Params.ref = false := by decide
theorem wf_refuses_sendMessage_size : (Instr.sendMessage 0 0 2 [1]).wf Params.ref = false := by decide
theorem wf_refuses_long_frame : (Instr.onPacketReceived (List.replicate 34 0)).wf Params.ref = false := by decide
theorem wf_refuses_wide_handler : (Instr.setCompletionHandler (2 ^ 32)).wf Params.ref = false := by decide

/-! ### Words written out from the spec's encodings (30_encoding.md R46 to R51, R56; vectors of 95_test_vectors.md) -/

/-- V5. -/
theorem decode_INIT :
    decode Params.ref (.frame [0x00, 0xFE, 0xFF, 0xFF, 0xFF, 0xFF, 0xFF, 0xFF, 0x01, 0xFF]) =
      .ok (.init 0xFE 0xFFFFFFFF 0xFFFF 1 [0xFF]) := by decide

/-- V2. -/
theorem decode_INIT_L :
    decode Params.ref (.frame [0x02, 0x48, 0xC0, 0xA8, 0x00, 0x01, 0x1F, 0x90, 0x02, 0x48, 0x69]) =
      .ok (.initL 0x48 0xC0A80001 0x1F90 2 [0x48, 0x69]) := by decide

/-- V27, with two trailing bytes. -/
theorem decode_DATA :
    decode Params.ref (.frame [0x01, 0x02, 0x00, 0x03, 0x01, 0x02, 0x03, 0xFF, 0xFF]) =
      .ok (.data 0x02 0 3 [0x01, 0x02, 0x03]) := by decide

/-- V9. -/
theorem decode_DATA_L :
    decode Params.ref (.frame [0x03, 0x7D, 0xFF, 0x01, 0x80]) = .ok (.dataL 0x7D 0xFF 1 [0x80]) := by decide

/-- Operation code 1; operands as log entry 2 lays them out. -/
theorem decode_sendMessage :
    decode Params.ref (.command [0x01, 0x0A, 0x00, 0x00, 0x01, 0x12, 0x34, 0x00, 0x02, 0x99, 0x98]) =
      .ok (.sendMessage 0x0A000001 0x1234 2 [0x99, 0x98]) := by decide

/-- Operation code 2. -/
theorem decode_pumpPendingFragment : decode Params.ref (.command [0x02]) = .ok .pumpPendingFragment := by decide

/-- Operation code 3. -/
theorem decode_onPacketReceived :
    decode Params.ref (.command [0x03, 0x01, 0x02, 0x03, 0x00]) = .ok (.onPacketReceived [0x01, 0x02, 0x03, 0x00]) := by
  decide

/-- Operation code 4. -/
theorem decode_setCompletionHandler :
    decode Params.ref (.command [0x04, 0x00, 0x0A, 0x11, 0xCE]) = .ok (.setCompletionHandler 0x000A11CE) := by decide

/-- Operation code 5. -/
theorem decode_tick : decode Params.ref (.command [0x05]) = .ok .tick := by decide

/-- V19 to V26: each malformed frame and the check that fires. -/
theorem decode_malformed :
    decodeFrame Params.ref [] = .error .noFlagsByte ∧
    decodeFrame Params.ref [0x04, 0x04, 0, 0, 0, 0, 0, 0, 0] = .error .reservedFlagsBit ∧
    decodeFrame Params.ref [0x80, 0x80, 0, 0] = .error .reservedFlagsBit ∧
    decodeFrame Params.ref (List.replicate 8 0) = .error .shortHeader ∧
    decodeFrame Params.ref [0x01, 0, 0] = .error .shortHeader ∧
    decodeFrame Params.ref ([0x01, 0x1C, 0x00, 0x1D] ++ List.replicate 29 0) = .error .dataLenAboveCapacity ∧
    decodeFrame Params.ref ([0x00, 0x19, 0, 0, 0, 0, 0, 0, 0x19] ++ List.replicate 24 0) =
      .error .dataLenAboveCapacity ∧
    decodeFrame Params.ref [0x01, 0x02, 0x00, 0x03, 0x01, 0x02] = .error .truncatedPayload ∧
    decodeFrame Params.ref ([0x02, 0x1A, 0, 0, 0, 0, 0, 0, 0x18] ++ List.replicate 23 0) = .error .truncatedPayload := by
  decide

/-- V1, V8: checksum and encoding. -/
theorem encode_sealed :
    encodePacket (sealPacket (.init true 0 0x01020304 0xABCD 4 [0x10, 0x20, 0x30, 0x40])) =
      [0x02, 0x42, 0x01, 0x02, 0x03, 0x04, 0xAB, 0xCD, 0x04, 0x10, 0x20, 0x30, 0x40] ∧
    encodePacket (sealPacket (.data true 0 1 3 [0x01, 0x02, 0x03])) = [0x03, 0x01, 0x01, 0x03, 0x01, 0x02, 0x03] := by
  decide

/-- A word of the opcode table and the instruction it stands for, in both encoding spaces. -/
theorem table_words :
    decodeTableWord 8 1 = some (.sendMessage 0 0 0 []) ∧ decodeTableWord 8 5 = some .tick ∧
    decodeTableWord 72 0 = some (.init 0 0 0 0 []) ∧ decodeTableWord 32 3 = some (.dataL 0 0 0 []) := by decide

/-! ### Small states -/

/-- The next state of an outcome, or a given one. -/
def nextOr (s : State) : Host.Outcome State Fault Refusal → State
  | .next t => t
  | _ => s

/-- The outcome is a next state. -/
def isNext : Host.Outcome State Fault Refusal → Bool
  | .next _ => true
  | _ => false

/-- An outcome of the operation `i`, run on `s`. -/
def after (i : Instr) (s : State) : State := nextOr s (exec i s)

/-- Idle, with a handler and a link that answers the next three writes with success. -/
def idle : State := { State.reset with linkAnswers := [true, true, true], cbValid := true, cbHandler := 0xA5 }

/-- Idle, with a link that fails. -/
def idleFail : State := { idle with linkAnswers := [false] }

/-- The pending buffer of program P1: bytes 0x18 to 0x3B. -/
def pendingP1 : Memory := (List.range 36).map fun i => (i, BitVec.ofNat 8 (0x18 + i))

/-- Program P1 before its last fragment. -/
def lastFragment : State := { idle with txTotalLen := 36, txSentOffset := 28, pendingBuffer := pendingP1 }

/-- Program P1 before its first DATA fragment. -/
def firstFragment : State := { idle with txTotalLen := 36, txSentOffset := 0, pendingBuffer := pendingP1 }

/-- The same, with a link that fails. -/
def firstFragmentFail : State := { firstFragment with linkAnswers := [false] }

/-- A reception in progress. -/
def receiving : State := { idle with rxReceivedLen := 52 }

/-- `s`, whose host gives one transaction next. -/
def given (w : InstrWord) (s : State) : State := { s with inputs := [.word w] }

/-! ### One or two vectors per instruction -/

/-- Program P3 steps 1 and 3: accepted in IDLE, rejected in RECEIVING. -/
theorem test_INIT :
    ((after (.init 0x0A 0x0A000003 9 2 [0xC0, 0xC1]) idle).rxReceivedLen = 2 ∧
      reassemblyByte (after (.init 0x0A 0x0A000003 9 2 [0xC0, 0xC1]) idle) 1 = 0xC1) ∧
    ((after (.init 0x0A 0x0A000003 9 2 [0xC0, 0xC1]) receiving).rxReceivedLen = 52 ∧
      (after (.init 0x0A 0x0A000003 9 2 [0xC0, 0xC1]) receiving).outcomes =
        [.single ⟨.concurrentTransferRejected, false⟩]) := by decide

/-- V45: stored and completed with no handler registered; program P3 step 8: a rejected INIT.L still completes. -/
theorem test_INIT_L :
    ((after (.initL 0x02 0x00000001 1 2 [0x61, 0x62]) State.reset).outcomes = [.single ⟨.none, true⟩] ∧
      (after (.initL 0x02 0x00000001 1 2 [0x61, 0x62]) State.reset).trace = [] ∧
      reassemblyByte (after (.initL 0x02 0x00000001 1 2 [0x61, 0x62]) State.reset) 0 = 0x61) ∧
    ((after (.initL 0x08 0x0A000003 9 2 [0xC0, 0xC1]) receiving).rxReceivedLen = 0 ∧
      (after (.initL 0x08 0x0A000003 9 2 [0xC0, 0xC1]) receiving).outcomes =
        [.single ⟨.concurrentTransferRejected, true⟩]) := by decide

/-- V44: saturation, not wrap; V41: an empty fragment beyond the buffer overflows. -/
theorem test_DATA :
    (after (.data 0x1D 0 28 (List.replicate 28 0)) { idle with rxReceivedLen := 0xFFF0 }).rxReceivedLen = 0xFFFF ∧
    (after (.data 0x08 9 0 []) idle).outcomes = [.single ⟨.bufferOverflow, false⟩] := by decide

/-- Program P1, the last frame: stored at 52, counted to 60, completed. -/
theorem test_DATA_L :
    (match (after (.dataL 0x0A 1 8 [0x34, 0x35, 0x36, 0x37, 0x38, 0x39, 0x3A, 0x3B]) receiving).trace with
      | [.done h len _] => h == 0xA5 && len == 60
      | _ => false) = true ∧
    reassemblyByte (after (.dataL 0x0A 1 8 [0x34, 0x35, 0x36, 0x37, 0x38, 0x39, 0x3A, 0x3B]) receiving) 52 = 0x34 ∧
    (after (.dataL 0x0A 1 8 [0x34, 0x35, 0x36, 0x37, 0x38, 0x39, 0x3A, 0x3B]) receiving).rxReceivedLen = 0 :=
  ⟨rfl, by decide, by decide⟩

/-- Program P2: a message in one packet. -/
theorem test_sendMessage_short :
    (after (.sendMessage 0xC0A80164 0x1388 4 [0x50, 0x49, 0x4E, 0x47]) idle).trace =
      [.linkStop, .linkWrite [0x02, 0x1B, 0xC0, 0xA8, 0x01, 0x64, 0x13, 0x88, 0x04, 0x50, 0x49, 0x4E, 0x47],
        .linkResume] ∧
    (after (.sendMessage 0xC0A80164 0x1388 4 [0x50, 0x49, 0x4E, 0x47]) idle).txTotalLen = 0 := by decide

/-- V31: 25 bytes leave one for a DATA packet; with a failing link none (program P4 part a). -/
theorem test_sendMessage_long :
    (after (.sendMessage 0x0A000001 0x1234 25 ((List.range 25).map fun i => BitVec.ofNat 8 i)) idle).txTotalLen = 1 ∧
    pendingByte (after (.sendMessage 0x0A000001 0x1234 25 ((List.range 25).map fun i => BitVec.ofNat 8 i)) idle) 0 =
      0x18 ∧
    (after (.sendMessage 0x0A000001 0x1234 25 ((List.range 25).map fun i => BitVec.ofNat 8 i)) idleFail).txTotalLen =
      0 := by decide

/-- Program P1, pump 2: the last fragment. -/
theorem test_pump_last :
    (after .pumpPendingFragment lastFragment).trace =
      [.linkStop, .linkWrite [0x03, 0x0A, 0x01, 0x08, 0x34, 0x35, 0x36, 0x37, 0x38, 0x39, 0x3A, 0x3B], .linkResume] ∧
    (after .pumpPendingFragment lastFragment).txTotalLen = 0 ∧
    (after .pumpPendingFragment lastFragment).txSentOffset = 0 := by decide

/-- Program P1, pump 1: the offset advances by DATA_CAPACITY. -/
theorem test_pump_first :
    (after .pumpPendingFragment firstFragment).txTotalLen = 36 ∧
    (after .pumpPendingFragment firstFragment).txSentOffset = 28 := by decide

/-- V27: trailing bytes; V13a: a wrong checksum. -/
theorem test_onPacketReceived :
    ((after (.onPacketReceived [0x01, 0x02, 0x00, 0x03, 0x01, 0x02, 0x03, 0xFF, 0xFF]) idle).rxReceivedLen = 3 ∧
      reassemblyByte (after (.onPacketReceived [0x01, 0x02, 0x00, 0x03, 0x01, 0x02, 0x03, 0xFF, 0xFF]) idle) 26 = 3) ∧
    (after (.onPacketReceived [0x01, 0x85, 0x00, 0x04, 0xB0, 0xB0, 0xB0, 0xB0]) idle).outcomes =
      [.single ⟨.checksumMismatch, false⟩] := by decide

/-- V47. -/
theorem test_setCompletionHandler :
    (after (.setCompletionHandler 0x5A) (after (.setCompletionHandler 0xA5) State.reset)).cbHandler = 0x5A ∧
    (after (.setCompletionHandler 0xA5) State.reset).cbValid = true := by decide

/-- V49; and program P5 step 7: of a burst only the last frame counts. -/
theorem test_tick :
    (after .tick idle).outcomes = [.tick ⟨.none, false⟩ ⟨.none, false⟩] ∧
    (after .tick { idle with inbound := [[0x03, 0x40, 0x00, 0x01, 0x42], [0x01, 0x76, 0x01, 0x01, 0x77]] }).rxReceivedLen =
      1 := by decide

/-- V48: a reserved operation code; V51: reset. -/
theorem test_step_inputs :
    (nextOr idle (step (given (.command [0x06]) idle))).outcomes = [.single ⟨.illegalCommand, false⟩] ∧
    (nextOr idle (step { lastFragment with inputs := [.reset] })).txTotalLen = 0 := by decide

/-- An opcode-table word runs as the first instruction after reset. -/
theorem test_first_instruction :
    (nextOr idle (step (State.reset.withFetchWord 72 0))).outcomes = [.single ⟨.none, false⟩] ∧
    (nextOr idle (step (State.reset.withFetchWord 8 4))).cbValid = true := by decide

/-! ### Witnesses: for every statement with hypotheses, states and operands that meet them -/

theorem idle_inv : idle.Inv :=
  ⟨by decide, by decide, by decide, by decide, by decide, by decide, by decide, by decide, by decide, by decide⟩

theorem idleFail_inv : idleFail.Inv :=
  ⟨by decide, by decide, by decide, by decide, by decide, by decide, by decide, by decide, by decide, by decide⟩

theorem lastFragment_inv : lastFragment.Inv :=
  ⟨by decide, by decide, by decide, by decide, by decide, by decide, by decide, by decide, by decide, by decide⟩

theorem firstFragment_inv : firstFragment.Inv :=
  ⟨by decide, by decide, by decide, by decide, by decide, by decide, by decide, by decide, by decide, by decide⟩

theorem firstFragmentFail_inv : firstFragmentFail.Inv :=
  ⟨by decide, by decide, by decide, by decide, by decide, by decide, by decide, by decide, by decide, by decide⟩

/-- The state of program P1 whose host now gives `pumpPendingFragment`. -/
def pumping : State := given (.command [0x02]) lastFragment

theorem pumping_inv : pumping.Inv :=
  ⟨by decide, by decide, by decide, by decide, by decide, by decide, by decide, by decide, by decide, by decide⟩

theorem lastFragment_written : PendingWritten lastFragment := by
  unfold PendingWritten
  decide

theorem pumping_written : PendingWritten pumping := lastFragment_written

theorem witness_StepRunsTheDecodedInstruction :
    pumping.inputs = .word (.command [0x02]) :: [] ∧ decode pumping.params (.command [0x02]) = .ok .pumpPendingFragment := by
  decide

theorem witness_DecodeOfEncodeIsTheInstruction :
    (Instr.initL 0x48 0xC0A80001 0x1F90 2 [0x48, 0x69]).wf Params.ref = true ∧
    (Instr.setCompletionHandler (2 ^ 32 - 1)).wf Params.ref = true ∧
    (Instr.sendMessage 1 1 1 [0x99]).wf Params.ref = true := by decide

theorem witness_PacketRoundTripLaws :
    (Packet.init true 0x02 0 0 0 []).wf Params.ref = true ∧
    (Packet.data false 0 0 28 (List.replicate 28 0)).wf Params.ref = true ∧
    decodeFrame Params.ref [0x01, 0x02, 0x00, 0x03, 0x01, 0x02, 0x03, 0xFF] = .ok (.data false 0x02 0 3 [0x01, 0x02, 0x03]) ∧
    encodePacket (.init true 0x02 0 0 0 []) = encodePacket (.init true 0x02 0 0 0 []) := by decide

theorem witness_WellFormedPacketsFitTheLink :
    Params.ref.Legal ∧ (Packet.init true 0 0 0 24 (List.replicate 24 0)).wf Params.ref = true ∧
    decodeFrame Params.ref [0x01, 0xFC, 0x00, 0x02, 0xAA, 0x55] = .ok (.data false 0xFC 0 2 [0xAA, 0x55]) := by decide

theorem witness_TrailingBytesAreIgnored :
    decodeFrame idle.params [0x01, 0x02, 0x00, 0x03, 0x01, 0x02, 0x03] = .ok (.data false 0x02 0 3 [0x01, 0x02, 0x03]) := by
  decide

theorem witness_ReservedOperationCodesAreIgnored :
    (given (.command [0x00]) idle).inputs = .word (.command (0x00 :: [])) :: [] ∧
    ((0x00 : Byte).extractLsb' 0 3).toNat = 0 ∧ ((0x06 : Byte).extractLsb' 0 3).toNat = 6 ∧
    ((0x07 : Byte).extractLsb' 0 3).toNat = 7 := by decide

theorem witness_ChecksumFoldsTheCoveredBytes :
    decodeFrame Params.ref [0x02, 0x48, 0xC0, 0xA8, 0x00, 0x01, 0x1F, 0x90, 0x02, 0x48, 0x69] =
      .ok (.init true 0x48 0xC0A80001 0x1F90 2 [0x48, 0x69]) ∧
    decodeFrame Params.ref [0x01, 0x02, 0x03, 0x00] = .ok (.data false 0x02 3 0 []) := by decide

/-- The payload clauses at the first and last bit of a byte, the address clause at bit 31, and valid packets for the gate. -/
theorem witness_OneCoveredBitFlipsOneChecksumBit :
    (0 < (1 : Byte).toNat ∧ 0 < [(0xFF : Byte)].length ∧ 7 < 8 ∧ 31 < 32) ∧
    packetValid (.init false 0xFE 0xFFFFFFFF 0xFFFF 1 [0xFF]) = true ∧
    packetValid (.data false 0x05 0 4 [0xB0, 0xB0, 0xB0, 0xB0]) = true := by decide

/-- V6 and V7: the payloads of two packets with one checksum; and four address bytes in another order. -/
theorem witness_ChecksumIgnoresByteOrder :
    [(0xAA : Byte), 0x55].Perm [0x55, 0xAA] ∧ [(0xAA : Byte), 0x55].length = (2 : Byte).toNat ∧
    [(1 : Byte), 2, 3, 4].Perm [4, 3, 2, 1] := by decide

theorem witness_AddressAndPortAreNotRetained :
    packetValid (.init false 0x0A 0x0A000003 9 2 [0xC0, 0xC1]) = true ∧
    packetValid (.init false 0x09 0x0A000000 7 2 [0xC0, 0xC1]) = true ∧
    packetValid (.init true 0x08 0x0A000003 9 2 [0xC0, 0xC1]) = true ∧
    packetValid (.init true 0x0B 0x0A000000 7 2 [0xC0, 0xC1]) = true := by decide

theorem witness_ResetLeavesTheIdleState :
    { lastFragment with inputs := [HostInput.reset] }.inputs = .reset :: [] := rfl

theorem witness_ResetTouchesNothingElse :
    { lastFragment with inputs := [HostInput.reset, .frameArrives []] }.inputs = .reset :: [.frameArrives []] := rfl

theorem witness_EveryStepKeepsTheInvariant : pumping.Inv ∧ ∃ t, step pumping = .next t := ⟨pumping_inv, _, rfl⟩

theorem witness_SessionBytesAreAlwaysWritten :
    pumping.Inv ∧ PendingWritten pumping ∧ ∃ t, step pumping = .next t := ⟨pumping_inv, pumping_written, _, rfl⟩

/-- The session's bytes agree, and a byte beyond them differs. -/
theorem witness_PumpDependsOnlyOnSessionBytes :
    lastFragment.Inv ∧ ∀ x, x < lastFragment.txTotalLen.toNat →
      byteAt .pendingBuffer (Memory.put pendingP1 100 0xEE) x = pendingByte lastFragment x :=
  ⟨lastFragment_inv, by decide⟩

theorem witness_OnlyTruncatedCommandsStop :
    pumping.Inv ∧ (∃ t, step pumping = .next t) ∧
    decodeCommand Params.ref [0x04, 0x00] = .error .truncatedCommand := ⟨pumping_inv, ⟨_, rfl⟩, by decide⟩

theorem witness_EveryFrameWrittenPassesThePeersGate :
    pumping.Inv ∧ (∃ t, step pumping = .next t ∧ t.trace = pumping.trace ++
      [.linkStop, .linkWrite [0x03, 0x0A, 0x01, 0x08, 0x34, 0x35, 0x36, 0x37, 0x38, 0x39, 0x3A, 0x3B], .linkResume]) ∧
    { Params.ref with linkMtu := 64 }.initCapacity = pumping.params.initCapacity :=
  ⟨pumping_inv, ⟨_, rfl, by decide⟩, rfl⟩

/-- One witness for each clause. -/
theorem witness_OperationsTouchOnlyTheirRow :
    (∃ t, exec (.sendMessage 1 1 1 [0x99]) idle = .next t) ∧ (∃ t, exec .pumpPendingFragment lastFragment = .next t) ∧
    (∃ t, exec (Packet.data true 0x40 0 1 [0x42]).toInstr receiving = .next t) ∧
    (∃ t, exec (.onPacketReceived [0x03, 0x40, 0x00, 0x01, 0x42]) receiving = .next t) ∧
    (∃ t, exec (.setCompletionHandler 0x5A) idle = .next t) ∧ (∃ t, exec .tick lastFragment = .next t) :=
  ⟨⟨_, rfl⟩, ⟨_, rfl⟩, ⟨_, rfl⟩, ⟨_, rfl⟩, ⟨_, rfl⟩, ⟨_, rfl⟩⟩

theorem witness_TransmitAndReceiveHalvesAreDisjoint :
    (∃ t, exec .tick lastFragment = .next t) ∧ (∃ t, exec .tick (withReceiveHalf receiving lastFragment) = .next t) ∧
    (∃ t, exec .tick (withTransmitHalf firstFragment lastFragment) = .next t) := ⟨⟨_, rfl⟩, ⟨_, rfl⟩, ⟨_, rfl⟩⟩

theorem witness_HandlerIsUnobservableUntilRegistered :
    State.reset.cbValid = false ∧ ∀ k, Instr.tick ≠ .setCompletionHandler k := ⟨rfl, fun _ h => by cases h⟩

/-- Each clause: a step; reset of a registered handler; a step that changes the handler. -/
theorem witness_HandlerAndParametersPersist :
    (∃ t, step { idle with inputs := [.reset] } = .next t ∧ idle.cbValid = true ∧ t.cbValid = false) ∧
    (∃ t, step (given (.command [0x04, 0, 0, 0, 0x5A]) idle) = .next t ∧ t.cbHandler ≠ idle.cbHandler) :=
  ⟨⟨_, rfl, by decide⟩, ⟨_, rfl, by decide⟩⟩

theorem witness_TracesAndOutcomesOfOperations :
    (∃ t, exec .tick { lastFragment with inbound := [[0x03, 0x40, 0x00, 0x01, 0x42]] } = .next t) ∧
    (∃ t, exec (.dataL 0x40 0 1 [0x42]) receiving = .next t) := ⟨⟨_, rfl⟩, ⟨_, rfl⟩⟩

theorem witness_CauseCodesAreTheTable : causeCode .txBusy = causeCode .txBusy := rfl

/-- Sizes 0 and INIT_CAPACITY, with either answer of the link. -/
theorem witness_SendMessageInOnePacket :
    (idle.Inv ∧ linkAnswer idle = true) ∧ (idleFail.Inv ∧ linkAnswer idleFail = false) ∧ idle.txTotalLen = 0 ∧
    idleFail.txTotalLen = 0 ∧ ([] : List Byte).length = (0 : Len).toNat ∧
    (List.replicate 24 (0 : Byte)).length = (24 : Len).toNat ∧ (24 : Len).toNat ≤ idle.params.initCapacity :=
  ⟨⟨idle_inv, rfl⟩, ⟨idleFail_inv, rfl⟩, rfl, rfl, rfl, by decide, by decide⟩

/-- Sizes INIT_CAPACITY + 1 and MAX_BUFFER_SIZE, with either answer of the link. -/
theorem witness_SendMessageOpensASession :
    (idle.Inv ∧ linkAnswer idle = true) ∧ (idleFail.Inv ∧ linkAnswer idleFail = false) ∧ idle.txTotalLen = 0 ∧
    idleFail.txTotalLen = 0 ∧ (List.replicate 25 (0 : Byte)).length = (25 : Len).toNat ∧
    idle.params.initCapacity < (25 : Len).toNat ∧ (List.replicate 256 (0 : Byte)).length = (256 : Len).toNat ∧
    (256 : Len).toNat ≤ idle.params.maxBufferSize :=
  ⟨⟨idle_inv, rfl⟩, ⟨idleFail_inv, rfl⟩, rfl, rfl, List.length_replicate, by decide, List.length_replicate, by decide⟩

/-- V38, V36 and V48. -/
theorem witness_RefusedCommandsHaveNoEffect :
    lastFragment.txTotalLen ≠ 0 ∧ (idle.txTotalLen = 0 ∧ idle.params.maxBufferSize < (257 : Len).toNat) ∧
    ((given (.command [0x07]) idle).inputs = .word (.command [0x07]) :: [] ∧
      decode (given (.command [0x07]) idle).params (.command [0x07]) = .error .reservedOpcode) := by decide

theorem witness_PumpWithNoSessionDoesNothing : idle.txTotalLen = 0 := rfl

/-- The last fragment, one that is not the last, and a failed write. -/
theorem witness_PumpSendsTheNextFragment :
    (lastFragment.Inv ∧ lastFragment.txTotalLen ≠ 0) ∧ (firstFragment.Inv ∧ firstFragment.txTotalLen ≠ 0) ∧
    (firstFragmentFail.Inv ∧ firstFragmentFail.txTotalLen ≠ 0 ∧ linkAnswer firstFragmentFail = false) :=
  ⟨⟨lastFragment_inv, by decide⟩, ⟨firstFragment_inv, by decide⟩, ⟨firstFragmentFail_inv, by decide, rfl⟩⟩

theorem witness_TransmitFailureEndsTheMessage :
    (firstFragmentFail.Inv ∧ linkAnswer firstFragmentFail = false ∧ firstFragmentFail.txTotalLen ≠ 0) ∧
    (idleFail.Inv ∧ linkAnswer idleFail = false ∧ idleFail.txTotalLen = 0 ∧
      (256 : Len).toNat ≤ idleFail.params.maxBufferSize) :=
  ⟨⟨firstFragmentFail_inv, rfl, by decide⟩, idleFail_inv, rfl, rfl, by decide⟩

/-- Lead chunks of 0 and of INIT_CAPACITY bytes (V17, V31). -/
theorem witness_InitInIdleStoresTheLeadChunk :
    idle.params.Legal ∧ idle.rxReceivedLen = 0 ∧ (24 : Byte).toNat ≤ idle.params.initCapacity ∧
    packetValid (.init false 0x00 0 0 0 []) = true ∧
    packetValid (.init false 0x13 0x0A000001 0x1234 24 ((List.range 24).map fun i => BitVec.ofNat 8 i)) = true ∧
    ((List.range 24).map fun i => BitVec.ofNat 8 i).length = (24 : Byte).toNat := by decide

/-- Lead chunks of 0 and of INIT_CAPACITY bytes (V4, V30). -/
theorem witness_InitLastInIdleCompletes :
    idle.params.Legal ∧ idle.rxReceivedLen = 0 ∧ (24 : Byte).toNat ≤ idle.params.initCapacity ∧
    packetValid (.init true 0x02 0 0 0 []) = true ∧
    packetValid (.init true 0x11 0x0A000001 0x1234 24 ((List.range 24).map fun i => BitVec.ofNat 8 i)) = true ∧
    ((List.range 24).map fun i => BitVec.ofNat 8 i).length = (24 : Byte).toNat := by decide

/-- Program P3 steps 3 and 8. -/
theorem witness_InitWhileReceivingIsRejected :
    receiving.rxReceivedLen ≠ 0 ∧ packetValid (.init false 0x0A 0x0A000003 9 2 [0xC0, 0xC1]) = true ∧
    packetValid (.init true 0x08 0x0A000003 9 2 [0xC0, 0xC1]) = true := by decide

/-- The last fragment that fits (index 8, 8 bytes: 248 + 8 = 256) and an empty one, with and without the last flag. -/
theorem witness_DataThatFitsIsStoredAndCounted :
    (List.replicate 8 (0xD0 : Byte)).length = (8 : Byte).toNat ∧
    248 = idle.params.initCapacity + (8 : Byte).toNat * idle.params.dataCapacity ∧
    248 + (8 : Byte).toNat ≤ idle.params.maxBufferSize ∧ 248 + (0 : Byte).toNat ≤ idle.params.maxBufferSize ∧
    packetValid (.data false 0x01 8 8 (List.replicate 8 0xD0)) = true ∧
    packetValid (.data true 0x03 8 8 (List.replicate 8 0xD0)) = true ∧
    packetValid (.data false 0x09 8 0 []) = true ∧ packetValid (.data true 0x0B 8 0 []) = true := by decide

/-- The first size that overflows (index 8, 9 bytes), and program P6 step 3 with the last flag. -/
theorem witness_DataThatOverflowsStoresNothing :
    idle.params.maxBufferSize < idle.params.initCapacity + (8 : Byte).toNat * idle.params.dataCapacity + (9 : Byte).toNat ∧
    packetValid (.data false 0xD0 8 9 (List.replicate 9 0xD0)) = true ∧
    idle.params.maxBufferSize < idle.params.initCapacity + (9 : Byte).toNat * idle.params.dataCapacity + (1 : Byte).toNat ∧
    packetValid (.data true 0x92 9 1 [0x99]) = true := by decide

/-- V13b, as a packet and as a frame. -/
theorem witness_ChecksumMismatchChangesNothing :
    packetValid (.data false 0x05 0 4 [0xB0, 0xB1, 0xB0, 0xB0]) = false ∧
    decodeFrame idle.params [0x01, 0x05, 0x00, 0x04, 0xB0, 0xB1, 0xB0, 0xB0] =
      .ok (.data false 0x05 0 4 [0xB0, 0xB1, 0xB0, 0xB0]) := by decide

/-- M1 to M5, each at its first value: V19, V20, V21, V24 with one byte more, and V25. -/
theorem witness_MalformedFramesChangeNothing :
    Malformed idle.params [] ∧ Malformed idle.params [0x04, 0x04, 0, 0, 0, 0, 0, 0, 0] ∧
    Malformed idle.params (List.replicate 8 0) ∧
    Malformed idle.params ([0x00, 0x19, 0, 0, 0, 0, 0, 0, 0x19] ++ List.replicate 25 0) ∧
    Malformed idle.params [0x01, 0x02, 0x00, 0x03, 0x01, 0x02] := by
  unfold Malformed
  decide

/-- A packet of each type, the INIT marked last. -/
theorem witness_OnPacketReceivedFollowsTheTransitionTable :
    idle.params.Legal ∧
    (decodeFrame idle.params [0x02, 0x08, 0x0A, 0, 0, 0x03, 0, 0x09, 0x02, 0xC0, 0xC1] =
        .ok (.init true 0x08 0x0A000003 9 2 [0xC0, 0xC1]) ∧
      packetValid (.init true 0x08 0x0A000003 9 2 [0xC0, 0xC1]) = true) ∧
    (decodeFrame idle.params [0x01, 0x76, 0x01, 0x01, 0x77] = .ok (.data false 0x76 1 1 [0x77]) ∧
      packetValid (.data false 0x76 1 1 [0x77]) = true) := by decide

/-- Program P3 steps 6 and 7. -/
theorem witness_DuplicateFragmentsAreCountedAgain :
    [(0xB0 : Byte), 0xB1, 0xB2, 0xB3].length = (4 : Byte).toNat ∧
    idle.params.initCapacity + (0 : Byte).toNat * idle.params.dataCapacity + (4 : Byte).toNat ≤ idle.params.maxBufferSize ∧
    packetValid (.data false 0x05 0 4 [0xB0, 0xB1, 0xB2, 0xB3]) = true := by decide

theorem witness_FragmentsLandTheSameInEitherOrder :
    (0 : Byte) ≠ 1 ∧ (Packet.data false 0x05 0 4 [0xB0, 0xB1, 0xB2, 0xB3]).wf idle.params = true ∧
    (Packet.data false 0x76 1 1 [0x77]).wf idle.params = true ∧
    packetValid (.data false 0x05 0 4 [0xB0, 0xB1, 0xB2, 0xB3]) = true ∧
    packetValid (.data false 0x76 1 1 [0x77]) = true := by decide

/-- The frame of V17. -/
theorem witness_StuckReceiverRejectsEveryInit :
    receiving.rxReceivedLen ≠ 0 ∧ ∀ f, f ∈ [List.replicate 9 (0 : Byte)] →
      ∃ c a q n d, decodeFrame receiving.params f = .ok (.init false c a q n d) ∧
        packetValid (.init false c a q n d) = true := by
  refine ⟨by decide, fun f h => ⟨0, 0, 0, 0, [], ?_⟩⟩
  rw [List.mem_singleton.1 h]
  decide

/-- A reception that a last DATA packet ends, given as a frame, as a command and at a poll; and by reset. -/
theorem witness_OnlyLastPacketsOrResetLeaveReceiving :
    receiving.rxReceivedLen ≠ 0 ∧
    (∃ t, step (given (.frame [0x03, 0x40, 0x00, 0x01, 0x42]) receiving) = .next t ∧ t.rxReceivedLen = 0) ∧
    (∃ t, step (given (.command [0x03, 0x03, 0x40, 0x00, 0x01, 0x42]) receiving) = .next t ∧ t.rxReceivedLen = 0) ∧
    (∃ t, step (given (.command [0x05]) { receiving with inbound := [[0x03, 0x40, 0x00, 0x01, 0x42]] }) = .next t ∧
      t.rxReceivedLen = 0) ∧
    (∃ t, step { receiving with inputs := [.reset] } = .next t ∧ t.rxReceivedLen = 0) :=
  ⟨by decide, ⟨_, rfl, by decide⟩, ⟨_, rfl, by decide⟩, ⟨_, rfl, by decide⟩, ⟨_, rfl, by decide⟩⟩

theorem witness_AllZeroFrameIsHarmless : 9 ≤ 9 ∧ 9 ≤ 33 := by decide

theorem witness_LastRegisteredHandlerWins : 0xA5 < 2 ^ idle.params.handlerW ∧ 2 ^ 32 - 1 < 2 ^ idle.params.handlerW := by
  decide

theorem witness_TickIsPumpThenReceive :
    lastFragment.Inv ∧ lastFragment.inbound = [] ∧
    { lastFragment with inbound := [[0x01], [0x03, 0x40, 0x00, 0x01, 0x42]] }.inbound =
      [[0x01]] ++ [[0x03, 0x40, 0x00, 0x01, 0x42]] := ⟨lastFragment_inv, rfl, rfl⟩

theorem witness_OnlyTheLastFrameOfABurstCounts : ∃ t, exec .tick lastFragment = .next t := ⟨_, rfl⟩

theorem witness_TickWithNothingToDo : idle.txTotalLen = 0 ∧ idle.inbound = [] := by decide

theorem witness_OffsetsAndIndicesNeverWrap :
    Params.ref.Legal ∧ 255 < 256 ∧ lastFragment.Inv ∧ lastFragment.txTotalLen ≠ 0 :=
  ⟨by decide, by decide, lastFragment_inv, by decide⟩

theorem witness_FragmentRegionsDoNotOverlap :
    27 < Params.ref.dataCapacity ∧ 0 < Params.ref.dataCapacity ∧ (0 : Nat) ≠ 1 ∧ Params.ref.initCapacity ≤ 24 := by decide

theorem witness_PumpingEndsTheSession : firstFragment.Inv ∧ firstFragmentFail.Inv :=
  ⟨firstFragment_inv, firstFragmentFail_inv⟩

theorem witness_OnlyPumpTickAndResetEndASession :
    pumping.txTotalLen ≠ 0 ∧ ∃ t, step pumping = .next t ∧ t.txTotalLen = 0 := ⟨by decide, _, rfl, by decide⟩

theorem witness_MessagePacketsCarryThePayload :
    Params.ref.Legal ∧ ([] : List Byte).length ≤ Params.ref.maxBufferSize ∧
    (List.replicate 256 (0 : Byte)).length ≤ Params.ref.maxBufferSize := ⟨by decide, by decide, List.length_replicate.le⟩

/-- The 60-byte message of program P1 (three writes), and a link that answers all of them. -/
theorem witness_MessageFramesGoOnTheLinkInOrder :
    idle.Inv ∧ idle.txTotalLen = 0 ∧ (List.replicate 60 (7 : Byte)).length = (60 : Len).toNat ∧
    (60 : Len).toNat ≤ idle.params.maxBufferSize ∧
    idle.linkAnswers = List.replicate (messageFragments idle.params (List.replicate 60 (7 : Byte)) + 1) true ++ [] :=
  ⟨idle_inv, rfl, by simp, by decide, by decide⟩

theorem witness_MessageRoundTrip :
    idle.Inv ∧ idle.txTotalLen = 0 ∧ (List.replicate 60 (7 : Byte)).length = (60 : Len).toNat ∧
    (60 : Len).toNat ≤ idle.params.maxBufferSize ∧
    idle.linkAnswers = List.replicate (messageFragments idle.params (List.replicate 60 (7 : Byte)) + 1) true ++ [] ∧
    { idle with linkAnswers := [] }.params.maxBufferSize = idle.params.maxBufferSize ∧
    { idle with linkAnswers := [] }.rxReceivedLen = 0 ∧ { idle with linkAnswers := [] }.cbValid = true :=
  ⟨idle_inv, rfl, by simp, by decide, by decide, rfl, rfl, rfl⟩

end Sys2Proof.Tests
end

section
/-! Which transaction a step runs (spec 00_scope.md R8, R9), and why a step from an invariant state stops only on a command
that ends before its operands (20_memory.md R34; 43_host_and_link.md R94; log entries 4 and 16). -/

namespace Sys2Proof.Machine

/-! ### Transactions -/

theorem step_of_word {s : State} {w : InstrWord} {rest : List HostInput} (h : s.inputs = .word w :: rest) :
    step s = runWord w (s.setInputs rest) := by
  simp [step, h, takeInput]

theorem runWord_of_decode_ok {s : State} {w : InstrWord} {i : Instr} (h : decode s.params w = .ok i) :
    runWord w s = exec i s := by
  simp [runWord, h]

/-- A frame is rejected as malformed, so only a command can be truncated. -/
theorem command_of_decode_truncated {P : Params} {w : InstrWord} (h : decode P w = .error .truncatedCommand) :
    ∃ bytes, w = .command bytes ∧ decodeCommand P bytes = .error .truncatedCommand := by
  cases w with
  | command bytes => exact ⟨bytes, rfl, h⟩
  | frame bytes => cases hf : decodeFrame P bytes <;> simp [decode, hf] at h

/-- Of the ways a transaction can name no instruction, only truncation stops the machine. -/
theorem rejectWord_cases (e : DecodeError) (s : State) :
    (∃ t, rejectWord e s = .next t) ∨ (e = .truncatedCommand ∧ rejectWord e s = .refused .truncatedCommand) := by
  cases e with
  | malformedFrame _ => exact Or.inl ⟨_, rfl⟩
  | reservedOpcode => exact Or.inl ⟨_, rfl⟩
  | truncatedCommand => exact Or.inr ⟨rfl, rfl⟩

/-! ### No fault from an invariant state -/

/-- The invariant says nothing about what the environment does next. -/
theorem setInputs_keeps_inv {s : State} (h : s.Inv) (is : List HostInput) : (s.setInputs is).Inv :=
  { h with }

/-- The one read that can fault, R34, stays inside the pending buffer. -/
theorem pumpFragment_ok_of_inv {s : State} (h : s.Inv) : ∃ r, pumpFragment s = .ok r := by
  rcases pumpFragment_cases s with ⟨-, hok⟩ | ⟨-, houtside, -⟩ | ⟨-, -, hok⟩
  · exact ⟨_, hok⟩
  · exact absurd (nextLength_le s h) (Nat.not_le_of_lt houtside)
  · exact ⟨_, hok⟩

/-- `pumpPendingFragment` and `tick` rest on the pump; every other instruction answers a next state in any state. -/
theorem exec_next_of_inv {s : State} (h : s.Inv) (i : Instr) : ∃ t, exec i s = .next t := by
  obtain ⟨r, hpump⟩ := pumpFragment_ok_of_inv h
  cases i with
  | init c a q n d => exact ⟨_, exec_packet (.init false c a q n d) s⟩
  | initL c a q n d => exact ⟨_, exec_packet (.init true c a q n d) s⟩
  | data c k n d => exact ⟨_, exec_packet (.data false c k n d) s⟩
  | dataL c k n d => exact ⟨_, exec_packet (.data true c k n d) s⟩
  | sendMessage a q size d => exact ⟨_, exec_sendMessage a q size d s⟩
  | pumpPendingFragment => exact ⟨_, by rw [exec_pumpPendingFragment, hpump]⟩
  | onPacketReceived f => exact ⟨_, exec_onPacketReceived f s⟩
  | setCompletionHandler k => exact ⟨_, exec_setCompletionHandler k s⟩
  | tick =>
    rcases execTick_cases s with ⟨e, herror, -⟩ | ⟨t, r', -, hnext⟩
    · rw [hpump] at herror
      cases herror
    · exact ⟨_, hnext⟩

/-! ### The statements -/

/-- Settles O1: the transaction is taken off the inputs, and the parameters it decodes under stay. -/
theorem stepRunsTheDecodedInstruction : Obligations.StepRunsTheDecodedInstruction := by
  intro s w rest i hinputs hdecode
  calc step s = runWord w (s.setInputs rest) := step_of_word hinputs
    _ = exec i (s.setInputs rest) := runWord_of_decode_ok hdecode

/-- Settles O19, by the cases of a step: instructions cannot fault under the invariant, and the only rejection that stops
is of a truncated command. -/
theorem onlyTruncatedCommandsStop : Obligations.OnlyTruncatedCommandsStop := by
  intro s hinv
  rcases step_cases s with ⟨-, hstep⟩ | ⟨rest, -, hstep⟩ | ⟨f, rest, -, hstep⟩ | ⟨w, rest, i, -, -, hstep⟩ |
    ⟨w, rest, e, hinputs, hdecode, hstep⟩
  · exact Or.inl ⟨_, hstep⟩
  · exact Or.inl ⟨_, hstep⟩
  · exact Or.inl ⟨_, hstep⟩
  · obtain ⟨t, hexec⟩ := exec_next_of_inv (setInputs_keeps_inv hinv rest) i
    exact Or.inl ⟨t, hstep.trans hexec⟩
  · rcases rejectWord_cases e (s.setInputs rest) with ⟨t, hnext⟩ | ⟨rfl, hrefused⟩
    · exact Or.inl ⟨t, hstep.trans hnext⟩
    · obtain ⟨bytes, rfl, htruncated⟩ := command_of_decode_truncated hdecode
      exact Or.inr ⟨bytes, rest, hinputs, htruncated, hstep.trans hrefused⟩

end Sys2Proof.Machine
end

section
/-! What each operation does to the state as a whole: the effects of the transmit operations and of `tick`, the instructions
by kind, and the fields each operation leaves alone (spec 10_state.md R29). -/

namespace Sys2Proof.Machine

/-! ### Instructions by kind -/

/-- The four packet instructions are one kind: `exec_packet` gives the meaning of all of them. -/
theorem instr_kinds {motive : Instr → Prop} (packet : ∀ p : Packet, motive p.toInstr)
    (sendMessage : ∀ a q size d, motive (.sendMessage a q size d)) (pumpPendingFragment : motive .pumpPendingFragment)
    (onPacketReceived : ∀ f, motive (.onPacketReceived f))
    (setCompletionHandler : ∀ k, motive (.setCompletionHandler k)) (tick : motive .tick) (i : Instr) : motive i := by
  cases i with
  | init c a q n d => exact packet (.init false c a q n d)
  | initL c a q n d => exact packet (.init true c a q n d)
  | data c k n d => exact packet (.data false c k n d)
  | dataL c k n d => exact packet (.data true c k n d)
  | sendMessage a q size d => exact sendMessage a q size d
  | pumpPendingFragment => exact pumpPendingFragment
  | onPacketReceived f => exact onPacketReceived f
  | setCompletionHandler k => exact setCompletionHandler k
  | tick => exact tick

theorem toInstr_ne_setCompletionHandler (p : Packet) (k : Nat) : p.toInstr ≠ .setCompletionHandler k := by
  cases p with
  | init l => cases l <;> simp [Packet.toInstr]
  | data l => cases l <;> simp [Packet.toInstr]

/-! ### Effects -/

/-- The state `sendMessage` leaves (R73): the one it found, or, once a frame is written, the session it created, which a
failed write ends. -/
theorem sendMessage_effect (a : Address) (q : Port) (size : Len) (d : List Byte) (s : State) :
    (sendMessage a q size d s).1 = s ∨
    (s.txTotalLen = 0 ∧ size.toNat ≤ s.params.maxBufferSize ∧
      ∃ f, (sendMessage a q size d s).1 = linkSend f (createSession size d s) ∨
        (sendMessage a q size d s).1 = (linkSend f (createSession size d s)).setTx 0 0) := by
  rcases sendMessage_cases a q size d s with ⟨-, h⟩ | ⟨-, -, h⟩ | ⟨hidle, hsize, h⟩
  · exact Or.inl (by rw [h])
  · exact Or.inl (by rw [h])
  · rw [h]
    cases linkAnswer s
    · exact Or.inr ⟨hidle, hsize, _, Or.inr rfl⟩
    · exact Or.inr ⟨hidle, hsize, _, Or.inl rfl⟩

/-- The state `pumpPendingFragment` leaves (R75): the one it found, or, once a frame is written, no session or a session
past the fragment sent. -/
theorem pumpFragment_effect {s t : State} {r : Report} (h : pumpFragment s = .ok (t, r)) :
    t = s ∨
    (s.txTotalLen ≠ 0 ∧ ∃ f, t = (linkSend f s).setTx 0 0 ∨
      (nextIsLast s = false ∧
        t = (linkSend f s).setTx s.txTotalLen (BitVec.ofNat 16 (s.txSentOffset.toNat + nextLength s)))) := by
  rcases pumpFragment_cases s with ⟨-, hp⟩ | ⟨-, -, hp⟩ | ⟨hactive, -, hp⟩ <;> rw [hp] at h
  · cases h
    exact Or.inl rfl
  · cases h
  · cases hanswer : linkAnswer s <;> rw [hanswer] at h <;> cases h
    · exact Or.inr ⟨hactive, _, Or.inl rfl⟩
    · cases hlast : nextIsLast s
      · exact Or.inr ⟨hactive, _, Or.inr ⟨rfl, rfl⟩⟩
      · exact Or.inr ⟨hactive, _, Or.inl rfl⟩

theorem exec_pumpPendingFragment_next {s t : State} (h : exec .pumpPendingFragment s = .next t) :
    ∃ u r, pumpFragment s = .ok (u, r) ∧ t = u.report (.single r) := by
  rw [exec_pumpPendingFragment] at h
  cases hp : pumpFragment s with
  | error e => rw [hp] at h; cases h
  | ok ur => rw [hp] at h; cases h; exact ⟨ur.1, ur.2, rfl, rfl⟩

theorem exec_tick_next {s t : State} (h : exec .tick s = .next t) :
    ∃ u r, pumpFragment s = .ok (u, r) ∧ t = (pollAndReceive u).1.report (.tick r (pollAndReceive u).2) := by
  change execTick s = .next t at h
  rcases execTick_cases s with ⟨e, -, he⟩ | ⟨u, r, hp, ht⟩
  · rw [he] at h; cases h
  · rw [ht] at h; cases h; exact ⟨u, r, hp, rfl⟩

/-- A rejected transaction that does not stop the machine only reports its cause (R57, R82, R102). -/
theorem rejectWord_next {e : DecodeError} {s t : State} (h : rejectWord e s = .next t) :
    ∃ r, t = s.report (.single r) := by
  cases e with
  | malformedFrame _ => cases h; exact ⟨_, rfl⟩
  | reservedOpcode => cases h; exact ⟨_, rfl⟩
  | truncatedCommand => cases h

/-! ### What the operations leave alone -/

/-- What no transmit operation writes: the receive half, the parameters, the host's inputs and the frames the link holds. -/
structure OutsideTransmit (s t : State) : Prop where
  params : t.params = s.params
  rxReceivedLen : t.rxReceivedLen = s.rxReceivedLen
  reassemblyBuffer : t.reassemblyBuffer = s.reassemblyBuffer
  cbValid : t.cbValid = s.cbValid
  cbHandler : t.cbHandler = s.cbHandler
  inputs : t.inputs = s.inputs
  inbound : t.inbound = s.inbound

/-- What the poll half of `tick` does not write: the transmit half, the handler, the parameters and the host's inputs. -/
structure OutsidePoll (s t : State) : Prop where
  params : t.params = s.params
  txTotalLen : t.txTotalLen = s.txTotalLen
  txSentOffset : t.txSentOffset = s.txSentOffset
  pendingBuffer : t.pendingBuffer = s.pendingBuffer
  cbValid : t.cbValid = s.cbValid
  cbHandler : t.cbHandler = s.cbHandler
  inputs : t.inputs = s.inputs

theorem createSession_outside (size : Len) (d : List Byte) (s : State) :
    OutsideTransmit s (createSession size d s) := by
  obtain ⟨hparams, hrx, hbuffer, hvalid, hhandler, hinputs, -, -, hinbound, -, -⟩ := createSession_frame size d s
  exact ⟨hparams, hrx, hbuffer, hvalid, hhandler, hinputs, hinbound⟩

theorem sendMessage_outside (a : Address) (q : Port) (size : Len) (d : List Byte) (s : State) :
    OutsideTransmit s (sendMessage a q size d s).1 := by
  rcases sendMessage_effect a q size d s with h | ⟨-, -, f, h | h⟩ <;> rw [h]
  · constructor <;> rfl
  · exact { createSession_outside size d s with }
  · exact { createSession_outside size d s with }

theorem pumpFragment_outside {s t : State} {r : Report} (h : pumpFragment s = .ok (t, r)) : OutsideTransmit s t := by
  rcases pumpFragment_effect h with rfl | ⟨-, f, rfl | ⟨-, rfl⟩⟩ <;> constructor <;> rfl

theorem pumpFragment_pendingBuffer {s t : State} {r : Report} (h : pumpFragment s = .ok (t, r)) :
    t.pendingBuffer = s.pendingBuffer := by
  rcases pumpFragment_effect h with rfl | ⟨-, f, rfl | ⟨-, rfl⟩⟩ <;> rfl

theorem pollAndReceive_outside (s : State) : OutsidePoll s (pollAndReceive s).1 := by
  rcases pollAndReceive_cases s with ⟨-, h⟩ | ⟨fs, f, -, h⟩ <;> rw [h]
  · constructor <;> rfl
  · obtain ⟨hparams, htotal, hoffset, hpending, hvalid, hhandler, hinputs, -, -, -, -⟩ :=
      receiveFrame_frame f (s.setInbound [])
    exact ⟨hparams, htotal, hoffset, hpending, hvalid, hhandler, hinputs⟩

/-- No instruction writes a parameter or the host's inputs. -/
theorem exec_sameHost {i : Instr} {s t : State} (h : exec i s = .next t) : SameHost s t := by
  induction i using instr_kinds with
  | packet p =>
    rw [exec_packet] at h; cases h
    obtain ⟨hparams, -, -, -, -, -, hinputs, -⟩ := receivePacket_frame p s
    exact ⟨hparams, hinputs⟩
  | sendMessage a q size d =>
    rw [exec_sendMessage] at h; cases h
    have ho := sendMessage_outside a q size d s
    exact ⟨ho.params, ho.inputs⟩
  | pumpPendingFragment =>
    obtain ⟨u, r, hp, rfl⟩ := exec_pumpPendingFragment_next h
    exact ⟨(pumpFragment_outside hp).params, (pumpFragment_outside hp).inputs⟩
  | onPacketReceived f =>
    rw [exec_onPacketReceived] at h; cases h
    obtain ⟨hparams, -, -, -, -, -, hinputs, -⟩ := receiveFrame_frame f s
    exact ⟨hparams, hinputs⟩
  | setCompletionHandler k => rw [exec_setCompletionHandler] at h; cases h; exact ⟨rfl, rfl⟩
  | tick =>
    obtain ⟨u, r, hp, rfl⟩ := exec_tick_next h
    have ho := pumpFragment_outside hp
    have hpoll := pollAndReceive_outside u
    exact ⟨hpoll.params.trans ho.params, hpoll.inputs.trans ho.inputs⟩

/-- Only `setCompletionHandler` writes a handler register. -/
theorem exec_sameHandler {i : Instr} {s t : State} (hi : ∀ k, i ≠ .setCompletionHandler k) (h : exec i s = .next t) :
    SameHandler s t := by
  induction i using instr_kinds with
  | packet p =>
    rw [exec_packet] at h; cases h
    obtain ⟨-, -, -, -, hvalid, hhandler, -⟩ := receivePacket_frame p s
    exact ⟨hvalid, hhandler⟩
  | sendMessage a q size d =>
    rw [exec_sendMessage] at h; cases h
    have ho := sendMessage_outside a q size d s
    exact ⟨ho.cbValid, ho.cbHandler⟩
  | pumpPendingFragment =>
    obtain ⟨u, r, hp, rfl⟩ := exec_pumpPendingFragment_next h
    exact ⟨(pumpFragment_outside hp).cbValid, (pumpFragment_outside hp).cbHandler⟩
  | onPacketReceived f =>
    rw [exec_onPacketReceived] at h; cases h
    obtain ⟨-, -, -, -, hvalid, hhandler, -⟩ := receiveFrame_frame f s
    exact ⟨hvalid, hhandler⟩
  | setCompletionHandler k => exact absurd rfl (hi k)
  | tick =>
    obtain ⟨u, r, hp, rfl⟩ := exec_tick_next h
    have ho := pumpFragment_outside hp
    have hpoll := pollAndReceive_outside u
    exact ⟨hpoll.cbValid.trans ho.cbValid, hpoll.cbHandler.trans ho.cbHandler⟩

end Sys2Proof.Machine
end

section
/-! Every step keeps the invariant of R26: one lemma per update and per operation, put together by the cases of `step`. -/

namespace Sys2Proof.Machine

variable {s : State}

/-! ### Updates -/

theorem report_keeps_inv (h : s.Inv) (o : OpOutcome) : (s.report o).Inv := { h with }

theorem linkSend_keeps_inv (h : s.Inv) (f : Frame) : (linkSend f s).Inv := { h with }

theorem setInbound_keeps_inv (h : s.Inv) (fs : List Frame) : (s.setInbound fs).Inv := { h with }

theorem setRx_keeps_inv (h : s.Inv) (len : Len) : (s.setRx len).Inv := { h with }

theorem storeReassembly_keeps_inv (h : s.Inv) {x : Nat} {bs : List Byte}
    (hfits : x + bs.length ≤ s.params.maxBufferSize) : (storeReassembly s x bs).Inv :=
  { h with
    reassemblyWf := putBytes_keeps_wf _ x bs h.reassemblyWf
    reassemblyWithin := putBytes_keeps_within _ x _ bs h.reassemblyWithin hfits }

theorem storePending_keeps_inv (h : s.Inv) {bs : List Byte} (hfits : bs.length ≤ s.params.pendingSize) :
    (storePending s bs).Inv :=
  { h with
    pendingWf := putBytes_keeps_wf _ 0 bs h.pendingWf
    pendingWithin := putBytes_keeps_within _ 0 _ bs h.pendingWithin (by simpa using hfits) }

/-- R77: with no session the length registers are 0. -/
theorem endSession_keeps_inv (h : s.Inv) : (s.setTx 0 0).Inv :=
  { h with
    totalBound := Nat.zero_le _
    idleOffset := fun _ => rfl
    offsetBound := fun hne => absurd rfl hne
    offsetAligned := Nat.zero_mod _ }

theorem assertReset_keeps_inv (h : s.Inv) : (assertReset s).Inv := { endSession_keeps_inv h with }

theorem setHandler_keeps_inv (h : s.Inv) (valid : Bool) {k : Nat} (hk : k < 2 ^ s.params.handlerW) :
    (s.setHandler valid k).Inv :=
  { h with handlerBound := hk }

/-! ### The receive side -/

theorem endPacket_keeps_inv (h : s.Inv) (isLast : Bool) (c : Cause) : (endPacket isLast c s).1.Inv := by
  obtain ⟨hparams, htotal, hoffset, hpending, hreassembly, -, hhandler, -⟩ := endPacket_frame isLast c s
  constructor <;> simp only [hparams, htotal, hoffset, hpending, hreassembly, hhandler]
  exacts [h.legal, h.totalBound, h.idleOffset, h.offsetBound, h.offsetAligned, h.pendingWf, h.pendingWithin,
    h.reassemblyWf, h.reassemblyWithin, h.handlerBound]

theorem receivePacket_keeps_inv (h : s.Inv) (p : Packet) : (receivePacket p s).1.Inv := by
  obtain ⟨x, bs, len, l, c, hp | hp | ⟨hp, hfits⟩⟩ := receivePacket_effect p s <;> rw [hp]
  · exact h
  · exact endPacket_keeps_inv h l c
  · exact endPacket_keeps_inv (setRx_keeps_inv (storeReassembly_keeps_inv h hfits) len) l c

theorem receiveFrame_keeps_inv (h : s.Inv) (f : Frame) : (receiveFrame f s).1.Inv := by
  rcases receiveFrame_cases f s with ⟨e, -, hf⟩ | ⟨p, -, hf⟩ <;> rw [hf]
  · exact h
  · exact receivePacket_keeps_inv h p

theorem pollAndReceive_keeps_inv (h : s.Inv) : (pollAndReceive s).1.Inv := by
  rcases pollAndReceive_cases s with ⟨-, hp⟩ | ⟨fs, f, -, hp⟩ <;> rw [hp]
  · exact setInbound_keeps_inv h []
  · exact receiveFrame_keeps_inv (setInbound_keeps_inv h []) f

/-! ### The transmit side -/

theorem length_messageRest_le (P : Params) (size : Len) (d : List Byte) :
    (messageRest P size d).length ≤ size.toNat - P.initCapacity := by
  simp only [messageRest, List.length_drop, List.length_take]
  omega

/-- R73: a session starts at offset 0, with the bytes the INIT packet does not carry, and they fit the pending buffer. -/
theorem createSession_keeps_inv (h : s.Inv) {size : Len} (hsize : size.toNat ≤ s.params.maxBufferSize) (d : List Byte) :
    (createSession size d s).Inv := by
  unfold createSession
  split
  · exact h
  · next hlong =>
    have hrest := length_messageRest_le s.params size d
    have htotal : (BitVec.ofNat 16 (size.toNat - s.params.initCapacity)).toNat = size.toNat - s.params.initCapacity := by
      rw [BitVec.toNat_ofNat]
      have := size.isLt
      omega
    have hfits : size.toNat - s.params.initCapacity ≤ s.params.pendingSize := by
      simp only [Params.pendingSize]
      omega
    exact { storePending_keeps_inv h (hrest.trans hfits) with
      totalBound := htotal.le.trans hfits
      idleOffset := fun _ => rfl
      offsetBound := fun _ => by
        simp only [setTx_txTotalLen, setTx_txSentOffset, htotal, BitVec.ofNat_eq_ofNat, BitVec.toNat_zero]
        omega
      offsetAligned := Nat.zero_mod _ }

theorem sendMessage_keeps_inv (h : s.Inv) (a : Address) (q : Port) (size : Len) (d : List Byte) :
    (sendMessage a q size d s).1.Inv := by
  rcases sendMessage_effect a q size d s with he | ⟨-, hsize, f, he | he⟩ <;> rw [he]
  · exact h
  · exact linkSend_keeps_inv (createSession_keeps_inv h hsize d) f
  · exact endSession_keeps_inv (linkSend_keeps_inv (createSession_keeps_inv h hsize d) f)

/-- A fragment that is not the last is a full one, and leaves bytes to send (R75). -/
theorem nextLength_of_not_last (h : s.Inv) (hactive : s.txTotalLen ≠ 0) (hlast : nextIsLast s = false) :
    nextLength s = s.params.dataCapacity ∧ s.txSentOffset.toNat + nextLength s < s.txTotalLen.toNat := by
  have hoffset := h.offsetBound hactive
  simp only [nextIsLast, beq_eq_false_iff_ne] at hlast
  simp only [nextLength] at hlast ⊢
  omega

/-- R26 I4: the offset moves by whole fragments and stays below the total. -/
theorem advanceOffset_keeps_inv (h : s.Inv) (hactive : s.txTotalLen ≠ 0) (hlast : nextIsLast s = false) :
    (s.setTx s.txTotalLen (BitVec.ofNat 16 (s.txSentOffset.toNat + nextLength s))).Inv := by
  obtain ⟨hlength, hbelow⟩ := nextLength_of_not_last h hactive hlast
  have hoffset : (BitVec.ofNat 16 (s.txSentOffset.toNat + nextLength s)).toNat = s.txSentOffset.toNat + nextLength s := by
    rw [BitVec.toNat_ofNat]
    have := s.txTotalLen.isLt
    omega
  exact { h with
    idleOffset := fun hidle => absurd hidle hactive
    offsetBound := fun _ => hoffset.trans_lt hbelow
    offsetAligned := by
      rw [setTx_txSentOffset, setTx_params, hoffset, hlength, Nat.add_mod_right]
      exact h.offsetAligned }

theorem pumpFragment_keeps_inv (h : s.Inv) {t : State} {r : Report} (hp : pumpFragment s = .ok (t, r)) : t.Inv := by
  rcases pumpFragment_effect hp with rfl | ⟨hactive, f, rfl | ⟨hlast, rfl⟩⟩
  · exact h
  · exact endSession_keeps_inv (linkSend_keeps_inv h f)
  · exact linkSend_keeps_inv (advanceOffset_keeps_inv h hactive hlast) f

/-! ### Instructions and steps -/

theorem exec_keeps_inv (h : s.Inv) {i : Instr} {t : State} (ht : exec i s = .next t) : t.Inv := by
  induction i using instr_kinds with
  | packet p => rw [exec_packet] at ht; cases ht; exact report_keeps_inv (receivePacket_keeps_inv h p) _
  | sendMessage a q size d =>
    rw [exec_sendMessage] at ht; cases ht
    exact report_keeps_inv (sendMessage_keeps_inv h a q size d) _
  | pumpPendingFragment =>
    obtain ⟨u, r, hp, rfl⟩ := exec_pumpPendingFragment_next ht
    exact report_keeps_inv (pumpFragment_keeps_inv h hp) _
  | onPacketReceived f => rw [exec_onPacketReceived] at ht; cases ht; exact report_keeps_inv (receiveFrame_keeps_inv h f) _
  | setCompletionHandler k =>
    rw [exec_setCompletionHandler] at ht; cases ht
    exact report_keeps_inv (setHandler_keeps_inv h true (Nat.mod_lt _ (Nat.two_pow_pos _))) _
  | tick =>
    obtain ⟨u, r, hp, rfl⟩ := exec_tick_next ht
    exact report_keeps_inv (pollAndReceive_keeps_inv (pumpFragment_keeps_inv h hp)) _

/-- Settles O16, by the cases of a step. -/
theorem everyStepKeepsTheInvariant : Obligations.EveryStepKeepsTheInvariant := by
  intro s t h ht
  have hrest := setInputs_keeps_inv h
  rcases step_cases s with ⟨-, hs⟩ | ⟨rest, -, hs⟩ | ⟨f, rest, -, hs⟩ | ⟨w, rest, i, -, -, hs⟩ | ⟨w, rest, e, -, -, hs⟩ <;>
    rw [hs] at ht
  · cases ht; exact h
  · cases ht; exact assertReset_keeps_inv (hrest rest)
  · cases ht; exact setInbound_keeps_inv (hrest rest) _
  · exact exec_keeps_inv (hrest rest) ht
  · obtain ⟨r, rfl⟩ := rejectWord_next ht
    exact report_keeps_inv (hrest rest) _

/-- Settles O15: both memories list nothing, and no session exists. -/
theorem resetMeetsTheInvariant : Obligations.ResetMeetsTheInvariant := by
  refine ⟨?_, fun x hx => absurd hx (Nat.not_lt_zero x)⟩
  exact {
    legal := by decide
    totalBound := Nat.zero_le _
    idleOffset := fun _ => rfl
    offsetBound := fun hne => absurd rfl hne
    offsetAligned := Nat.zero_mod _
    pendingWf := reset_pending_wf
    pendingWithin := rfl
    reassemblyWf := reset_reassembly_wf
    reassemblyWithin := rfl
    handlerBound := Nat.two_pow_pos _ }

end Sys2Proof.Machine
end

section
/-! Who touches what (spec 10_state.md R27, R29), and what persists over a step (R20; 00_scope.md R3; log entry 13). -/

namespace Sys2Proof.Machine

/-! ### The access table -/

theorem pendingByte_congr {s t : State} (h : t.pendingBuffer = s.pendingBuffer) (x : Nat) :
    pendingByte t x = pendingByte s x := by
  rw [pendingByte, pendingByte, h]

namespace OutsideTransmit

variable {s t : State}

theorem sameReceive (h : OutsideTransmit s t) : SameReceive s t :=
  ⟨h.rxReceivedLen, fun x => by rw [reassemblyByte, reassemblyByte, h.reassemblyBuffer]⟩

theorem sameHandler (h : OutsideTransmit s t) : SameHandler s t := ⟨h.cbValid, h.cbHandler⟩

theorem sameHost (h : OutsideTransmit s t) : SameHost s t := ⟨h.params, h.inputs⟩

end OutsideTransmit

/-- Processing a packet is the receiver's alone. -/
theorem receivePacket_same (p : Packet) (s : State) :
    SameTransmit s (receivePacket p s).1 ∧ SameHandler s (receivePacket p s).1 ∧ SameHost s (receivePacket p s).1 ∧
      SameLink s (receivePacket p s).1 := by
  obtain ⟨hparams, htotal, hoffset, hpending, hvalid, hhandler, hinputs, hanswers, hwrites, hinbound, -⟩ :=
    receivePacket_frame p s
  exact ⟨⟨htotal, hoffset, pendingByte_congr hpending⟩, ⟨hvalid, hhandler⟩, ⟨hparams, hinputs⟩,
    hanswers, hwrites, hinbound⟩

theorem receiveFrame_same (f : Frame) (s : State) :
    SameTransmit s (receiveFrame f s).1 ∧ SameHandler s (receiveFrame f s).1 ∧ SameHost s (receiveFrame f s).1 ∧
      SameLink s (receiveFrame f s).1 := by
  rcases receiveFrame_cases f s with ⟨e, -, h⟩ | ⟨p, -, h⟩ <;> rw [h]
  · exact ⟨⟨rfl, rfl, fun _ => rfl⟩, ⟨rfl, rfl⟩, ⟨rfl, rfl⟩, rfl, rfl, rfl⟩
  · exact receivePacket_same p s

/-- Settles O21, row by row. -/
theorem operationsTouchOnlyTheirRow : Obligations.OperationsTouchOnlyTheirRow := by
  refine ⟨?sendMessage, ?pump, ?packet, ?onPacketReceived, ?setCompletionHandler, ?tick⟩
  case sendMessage =>
    intro s t a q n d h
    rw [exec_sendMessage] at h; cases h
    have ho := sendMessage_outside a q n d s
    exact ⟨ho.sameReceive, ho.sameHandler, ho.sameHost, ho.inbound⟩
  case pump =>
    intro s t h
    obtain ⟨u, r, hp, rfl⟩ := exec_pumpPendingFragment_next h
    have ho := pumpFragment_outside hp
    exact ⟨pendingByte_congr (t := u.report _) (pumpFragment_pendingBuffer hp :), ho.sameReceive, ho.sameHandler,
      ho.sameHost, ho.inbound⟩
  case packet =>
    intro s t p h
    rw [exec_packet] at h; cases h
    exact receivePacket_same p s
  case onPacketReceived =>
    intro s t f h
    rw [exec_onPacketReceived] at h; cases h
    exact receiveFrame_same f s
  case setCompletionHandler =>
    intro s t k h
    rw [exec_setCompletionHandler] at h; cases h
    exact ⟨⟨rfl, rfl, fun _ => rfl⟩, ⟨rfl, fun _ => rfl⟩, ⟨rfl, rfl⟩, rfl, rfl, rfl⟩
  case tick =>
    intro s t h
    refine ⟨?_, exec_sameHandler (by simp) h, exec_sameHost h⟩
    obtain ⟨u, r, hp, rfl⟩ := exec_tick_next h
    exact pendingByte_congr ((pollAndReceive_outside u).pendingBuffer.trans (pumpFragment_pendingBuffer hp))

/-! ### What persists -/

/-- Settles O24, by the cases of a step: of the instructions only `setCompletionHandler` writes a handler register, and it
sets `cbValid`. -/
theorem handlerAndParametersPersist : Obligations.HandlerAndParametersPersist := by
  intro s t ht
  rcases step_cases s with ⟨-, hs⟩ | ⟨rest, hinputs, hs⟩ | ⟨f, rest, -, hs⟩ | ⟨w, rest, i, hinputs, hdecode, hs⟩ |
    ⟨w, rest, e, -, -, hs⟩ <;> rw [hs] at ht
  · cases ht
    exact ⟨rfl, fun hvalid hclear => by simp [hvalid] at hclear, fun hne => absurd rfl hne⟩
  · cases ht
    exact ⟨rfl, fun _ _ => ⟨rest, hinputs⟩, fun hne => absurd rfl hne⟩
  · cases ht
    exact ⟨rfl, fun hvalid hclear => by simp [hvalid] at hclear, fun hne => absurd rfl hne⟩
  · refine ⟨(exec_sameHost ht).1, ?_⟩
    by_cases hi : ∃ k, i = .setCompletionHandler k
    · obtain ⟨k, rfl⟩ := hi
      rw [exec_setCompletionHandler] at ht; cases ht
      exact ⟨fun _ hclear => by simp at hclear, fun _ => ⟨w, rest, k, hinputs, hdecode⟩⟩
    · obtain ⟨hsame, hhandler⟩ := exec_sameHandler (fun k hk => hi ⟨k, hk⟩) ht
      exact ⟨fun hvalid hclear => by simp [hsame, hvalid] at hclear, fun hne => absurd hhandler hne⟩
  · obtain ⟨r, rfl⟩ := rejectWord_next ht
    exact ⟨rfl, fun hvalid hclear => by simp [hvalid] at hclear, fun hne => absurd rfl hne⟩

/-- Settles O14. -/
theorem resetTouchesNothingElse : Obligations.ResetTouchesNothingElse := by
  intro s rest hinputs
  have hstep : step s = .next (assertReset (s.setInputs rest)) := by simp [step, hinputs, takeInput]
  exact ⟨_, hstep, rfl, rfl, rfl, ⟨rfl, rfl, rfl⟩, rfl, rfl⟩

/-! ### Address and port (R27) -/

/-- The gate is all of an INIT that sees the checksum and the address, and nothing of it sees the port. -/
theorem receivePacket_init (l : Bool) (c : Byte) (a : Address) (q : Port) (n : Byte) (d : List Byte) (s : State) :
    receivePacket (.init l c a q n d) s =
      if packetValid (.init l c a q n d) then handleInit l n d s else raiseCause .checksumMismatch s := rfl

theorem packetValid_init_port (l : Bool) (c : Byte) (a : Address) (q q' : Port) (n : Byte) (d : List Byte) :
    packetValid (.init l c a q n d) = packetValid (.init l c a q' n d) := rfl

theorem receivePacket_init_port (l : Bool) (c : Byte) (a : Address) (q q' : Port) (n : Byte) (d : List Byte) (s : State) :
    receivePacket (.init l c a q n d) s = receivePacket (.init l c a q' n d) s := by
  rw [receivePacket_init, receivePacket_init, packetValid_init_port l c a q q']

theorem receivePacket_init_of_valid {l : Bool} {c : Byte} {a : Address} {q : Port} {n : Byte} {d : List Byte}
    (h : packetValid (.init l c a q n d) = true) (s : State) :
    receivePacket (.init l c a q n d) s = handleInit l n d s := by
  rw [receivePacket_init, if_pos h]

theorem exec_congr_of_receivePacket {p p' : Packet} {s : State} (h : receivePacket p s = receivePacket p' s) :
    exec p.toInstr s = exec p'.toInstr s := by
  rw [exec_packet, exec_packet, h]

/-- Settles O12: the port reaches nothing, and an INIT that passes the gate is handled by its `dataLen` and payload. -/
theorem addressAndPortAreNotRetained : Obligations.AddressAndPortAreNotRetained := by
  have hvalid : ∀ {l c c' a a' q q' n d} (s : State), packetValid (.init l c a q n d) = true →
      packetValid (.init l c' a' q' n d) = true →
      exec (Packet.init l c a q n d).toInstr s = exec (Packet.init l c' a' q' n d).toInstr s := fun s h h' =>
    exec_congr_of_receivePacket ((receivePacket_init_of_valid h s).trans (receivePacket_init_of_valid h' s).symm)
  refine ⟨fun c a q q' n d s => ⟨?_, ?_⟩, fun _ _ _ _ _ _ _ _ s h h' => hvalid s h h',
    fun _ _ _ _ _ _ _ _ s h h' => hvalid s h h'⟩
  · exact exec_congr_of_receivePacket (receivePacket_init_port false c a q q' n d s)
  · exact exec_congr_of_receivePacket (receivePacket_init_port true c a q q' n d s)

end Sys2Proof.Machine
end

section
/-! Noninterference (spec 10_state.md R20, R28; 70_reset_and_hazards.md R122). A relation between states that the reads of a
half respect and its updates keep is kept by every operation on that half, with the same reports. The statements are the
cases where the relation is "differs in the other half" and "differs in an unregistered handler". -/

namespace Sys2Proof.Machine

variable {R : State → State → Prop} {s s' : State}

/-! ### Relations between states, and between results -/

/-- Two states are the same to a transmit operation. -/
structure TransmitReads (s s' : State) : Prop where
  params : s'.params = s.params
  txTotalLen : s'.txTotalLen = s.txTotalLen
  txSentOffset : s'.txSentOffset = s.txSentOffset
  pendingBuffer : s'.pendingBuffer = s.pendingBuffer
  linkAnswers : s'.linkAnswers = s.linkAnswers
  linkWrites : s'.linkWrites = s.linkWrites

/-- A relation that the transmit operations' reads respect and their updates keep. -/
structure TransmitRelation (R : State → State → Prop) : Prop where
  reads : ∀ {s s'}, R s s' → TransmitReads s s'
  setTx : ∀ {s s'} a b, R s s' → R (s.setTx a b) (s'.setTx a b)
  storePending : ∀ {s s'} bs, R s s' → R (storePending s bs) (storePending s' bs)
  linkSend : ∀ {s s'} f, R s s' → R (linkSend f s) (linkSend f s')
  report : ∀ {s s'} o, R s s' → R (s.report o) (s'.report o)

/-- A relation that the receive operations' reads respect and their updates keep. -/
structure ReceiveRelation (R : State → State → Prop) : Prop where
  params : ∀ {s s'}, R s s' → s'.params = s.params
  rxReceivedLen : ∀ {s s'}, R s s' → s'.rxReceivedLen = s.rxReceivedLen
  setRx : ∀ {s s'} len, R s s' → R (s.setRx len) (s'.setRx len)
  storeReassembly : ∀ {s s'} x bs, R s s' → R (storeReassembly s x bs) (storeReassembly s' x bs)
  complete : ∀ {s s'}, R s s' → R (complete s) (complete s')
  report : ∀ {s s'} o, R s s' → R (s.report o) (s'.report o)

/-- Related states with the same report. -/
def RelatedResults (R : State → State → Prop) (r r' : State × Report) : Prop := R r.1 r'.1 ∧ r'.2 = r.2

/-- The same fault, or related results. -/
inductive RelatedPumps (R : State → State → Prop) :
    Except Fault (State × Report) → Except Fault (State × Report) → Prop
  | ok {r r'} : RelatedResults R r r' → RelatedPumps R (.ok r) (.ok r')
  | error (e) : RelatedPumps R (.error e) (.error e)

/-- The same fault or refusal, or related next states. -/
inductive RelatedOutcomes (R : State → State → Prop) :
    Host.Outcome State Fault Refusal → Host.Outcome State Fault Refusal → Prop
  | next {t t'} : R t t' → RelatedOutcomes R (.next t) (.next t')
  | fault (e) : RelatedOutcomes R (.fault e) (.fault e)
  | refused (e) : RelatedOutcomes R (.refused e) (.refused e)

theorem RelatedOutcomes.mono {Q : State → State → Prop} {o o' : Host.Outcome State Fault Refusal}
    (h : RelatedOutcomes R o o') (hRQ : ∀ {t t'}, R t t' → Q t t') : RelatedOutcomes Q o o' := by
  cases h with
  | next h => exact .next (hRQ h)
  | fault e => exact .fault e
  | refused e => exact .refused e

/-- Related by a function's graph: the operation commutes with the function. -/
theorem RelatedOutcomes.eq_mapNext {g : State → State} {o o' : Host.Outcome State Fault Refusal}
    (h : RelatedOutcomes (fun s s' => s' = g s) o o') : o' = mapNext g o := by
  cases h with
  | next h => rw [h]; rfl
  | fault e => rfl
  | refused e => rfl

/-! ### Transmit operations -/

namespace TransmitReads

theorem txActive_eq (h : TransmitReads s s') : txActive s' = txActive s := by
  rw [txActive, txActive, h.txTotalLen]

theorem linkAnswer_eq (h : TransmitReads s s') : linkAnswer s' = linkAnswer s := by
  unfold linkAnswer
  rw [h.linkAnswers, h.linkWrites]

theorem nextLength_eq (h : TransmitReads s s') : nextLength s' = nextLength s := by
  rw [nextLength, nextLength, h.params, h.txTotalLen, h.txSentOffset]

theorem nextIsLast_eq (h : TransmitReads s s') : nextIsLast s' = nextIsLast s := by
  rw [nextIsLast, nextIsLast, h.txTotalLen, h.txSentOffset, h.nextLength_eq]

theorem nextPacket_eq (h : TransmitReads s s') (bytes : List Byte) : nextPacket s' bytes = nextPacket s bytes := by
  rw [nextPacket, nextPacket, nextIndex, nextIndex, h.params, h.txSentOffset, h.nextIsLast_eq, h.nextLength_eq]

theorem readPending_eq (h : TransmitReads s s') (x n : Nat) : readPending s' x n = readPending s x n := by
  simp only [readPending, pendingByte, h.params, h.pendingBuffer]

end TransmitReads

namespace TransmitRelation

theorem afterWrite (hR : TransmitRelation R) (ok : Bool) {g : State → State}
    (hg : ∀ {t t'}, R t t' → R (g t) (g t')) (h : R s s') :
    RelatedResults R (afterWrite ok g s) (afterWrite ok g s') := by
  cases ok
  · exact ⟨hR.setTx 0 0 h, rfl⟩
  · exact ⟨hg h, rfl⟩

theorem createSession (hR : TransmitRelation R) (size : Len) (d : List Byte) (h : R s s') :
    R (createSession size d s) (createSession size d s') := by
  simp only [Machine.createSession, (hR.reads h).params]
  split
  · exact h
  · exact hR.setTx _ _ (hR.storePending _ h)

theorem sendMessage (hR : TransmitRelation R) (a : Address) (q : Port) (size : Len) (d : List Byte) (h : R s s') :
    RelatedResults R (sendMessage a q size d s) (sendMessage a q size d s') := by
  have hreads := hR.reads h
  simp only [Machine.sendMessage, hreads.txActive_eq, hreads.params, hreads.linkAnswer_eq]
  split_ifs
  · exact ⟨h, rfl⟩
  · exact ⟨h, rfl⟩
  · exact hR.afterWrite _ id (hR.linkSend _ (hR.createSession size d h))

theorem advance (hR : TransmitRelation R) (total offset : Len) (isLast : Bool) (n : Nat) (h : R s s') :
    R (advance total offset isLast n s) (advance total offset isLast n s') := by
  cases isLast
  · exact hR.setTx _ _ h
  · exact hR.setTx 0 0 h

theorem pumpFragment (hR : TransmitRelation R) (h : R s s') : RelatedPumps R (pumpFragment s) (pumpFragment s') := by
  have hreads := hR.reads h
  simp only [Machine.pumpFragment, hreads.txActive_eq, hreads.readPending_eq, hreads.txTotalLen, hreads.txSentOffset,
    hreads.nextLength_eq, hreads.nextIsLast_eq, hreads.nextPacket_eq, hreads.linkAnswer_eq]
  cases txActive s
  · exact .ok ⟨h, rfl⟩
  · cases readPending s s.txSentOffset.toNat (nextLength s) with
    | error e => exact .error e
    | ok bytes => exact .ok (hR.afterWrite _ (hR.advance _ _ _ _) (hR.linkSend _ h))

theorem exec_sendMessage (hR : TransmitRelation R) (a : Address) (q : Port) (size : Len) (d : List Byte) (h : R s s') :
    RelatedOutcomes R (exec (.sendMessage a q size d) s) (exec (.sendMessage a q size d) s') := by
  obtain ⟨hstate, hreport⟩ := hR.sendMessage a q size d h
  rw [Machine.exec_sendMessage, Machine.exec_sendMessage, hreport]
  exact .next (hR.report _ hstate)

theorem exec_pumpPendingFragment (hR : TransmitRelation R) (h : R s s') :
    RelatedOutcomes R (exec .pumpPendingFragment s) (exec .pumpPendingFragment s') := by
  have hpumps := hR.pumpFragment h
  rw [Machine.exec_pumpPendingFragment, Machine.exec_pumpPendingFragment]
  generalize Machine.pumpFragment s = p, Machine.pumpFragment s' = p' at hpumps ⊢
  cases hpumps with
  | error e => exact .fault e
  | ok hresult =>
    obtain ⟨hstate, hreport⟩ := hresult
    simp only [hreport]
    exact .next (hR.report _ hstate)

end TransmitRelation

/-! ### Receive operations -/

namespace ReceiveRelation

theorem endPacket (hR : ReceiveRelation R) (isLast : Bool) (c : Cause) (h : R s s') :
    RelatedResults R (endPacket isLast c s) (endPacket isLast c s') := by
  cases isLast
  · exact ⟨h, rfl⟩
  · exact ⟨hR.complete h, rfl⟩

theorem handleInit (hR : ReceiveRelation R) (isLast : Bool) (n : Byte) (d : List Byte) (h : R s s') :
    RelatedResults R (handleInit isLast n d s) (handleInit isLast n d s') := by
  have hstate : rxState s' = rxState s := by rw [rxState, rxState, hR.rxReceivedLen h]
  simp only [Machine.handleInit, hstate, hR.params h]
  split_ifs
  · exact hR.endPacket _ _ h
  · exact hR.endPacket _ _ (hR.setRx _ (hR.storeReassembly _ _ h))
  · exact hR.endPacket _ _ h

theorem handleData (hR : ReceiveRelation R) (isLast : Bool) (k n : Byte) (d : List Byte) (h : R s s') :
    RelatedResults R (handleData isLast k n d s) (handleData isLast k n d s') := by
  simp only [Machine.handleData, hR.rxReceivedLen h, hR.params h]
  split_ifs
  · exact hR.endPacket _ _ (hR.setRx _ (hR.storeReassembly _ _ h))
  · exact hR.endPacket _ _ h

theorem receivePacket (hR : ReceiveRelation R) (p : Packet) (h : R s s') :
    RelatedResults R (receivePacket p s) (receivePacket p s') := by
  unfold Machine.receivePacket
  split_ifs
  · cases p with
    | init l c a q n d => exact hR.handleInit l n d h
    | data l c k n d => exact hR.handleData l k n d h
  · exact ⟨h, rfl⟩

theorem receiveFrame (hR : ReceiveRelation R) (f : Frame) (h : R s s') :
    RelatedResults R (receiveFrame f s) (receiveFrame f s') := by
  unfold Machine.receiveFrame
  rw [hR.params h]
  cases decodeFrame s.params f with
  | error e => exact ⟨h, rfl⟩
  | ok p => exact hR.receivePacket p h

/-- The poll depends besides on the frames the link holds, and empties them. -/
theorem pollAndReceive (hR : ReceiveRelation R) (hinbound : s'.inbound = s.inbound)
    (h : R (s.setInbound []) (s'.setInbound [])) : RelatedResults R (pollAndReceive s) (pollAndReceive s') := by
  unfold Machine.pollAndReceive
  rw [hinbound]
  cases pollFrame s.inbound with
  | none => exact ⟨h, rfl⟩
  | some f => exact hR.receiveFrame f h

theorem exec_packet (hR : ReceiveRelation R) (p : Packet) (h : R s s') :
    RelatedOutcomes R (exec p.toInstr s) (exec p.toInstr s') := by
  obtain ⟨hstate, hreport⟩ := hR.receivePacket p h
  rw [Machine.exec_packet, Machine.exec_packet, hreport]
  exact .next (hR.report _ hstate)

theorem exec_onPacketReceived (hR : ReceiveRelation R) (f : Frame) (h : R s s') :
    RelatedOutcomes R (exec (.onPacketReceived f) s) (exec (.onPacketReceived f) s') := by
  obtain ⟨hstate, hreport⟩ := hR.receiveFrame f h
  rw [Machine.exec_onPacketReceived, Machine.exec_onPacketReceived, hreport]
  exact .next (hR.report _ hstate)

end ReceiveRelation

/-- `tick` keeps what both of its halves keep. -/
theorem exec_tick_related (hT : TransmitRelation R) (hR : ReceiveRelation R)
    (hinbound : ∀ {t t'}, R t t' → t'.inbound = t.inbound)
    (hset : ∀ {t t'}, R t t' → R (t.setInbound []) (t'.setInbound [])) (h : R s s') :
    RelatedOutcomes R (exec .tick s) (exec .tick s') := by
  have hpumps := hT.pumpFragment h
  change RelatedOutcomes R (execTick s) (execTick s')
  unfold execTick
  rw [pumpIfActive_eq, pumpIfActive_eq]
  generalize pumpFragment s = p, pumpFragment s' = p' at hpumps ⊢
  cases hpumps with
  | error e => exact .fault e
  | ok hpump =>
    obtain ⟨hstate, hreport⟩ := hpump
    obtain ⟨hpollState, hpollReport⟩ := hR.pollAndReceive (hinbound hstate) (hset hstate)
    simp only [hreport, hpollReport]
    exact .next (hR.report _ hpollState)

/-! ### Replacing the other half (R28) -/

theorem withReceiveHalf_transmitRelation (r : State) : TransmitRelation (fun s s' => s' = withReceiveHalf r s) where
  reads := by rintro s _ rfl; constructor <;> rfl
  setTx := by rintro s _ a b rfl; rfl
  storePending := by rintro s _ bs rfl; rfl
  linkSend := by rintro s _ f rfl; rfl
  report := by rintro s _ o rfl; rfl

theorem complete_withTransmitHalf (r s : State) :
    complete (withTransmitHalf r s) = withTransmitHalf r (complete s) := by
  have hvalid : (withTransmitHalf r s).cbValid = s.cbValid := rfl
  unfold complete
  rw [hvalid]
  split <;> rfl

theorem withTransmitHalf_receiveRelation (r : State) : ReceiveRelation (fun s s' => s' = withTransmitHalf r s) where
  params := by rintro s _ rfl; rfl
  rxReceivedLen := by rintro s _ rfl; rfl
  setRx := by rintro s _ len rfl; rfl
  storeReassembly := by rintro s _ x bs rfl; rfl
  complete := by rintro s _ rfl; exact complete_withTransmitHalf r s
  report := by rintro s _ o rfl; rfl

/-- Two states with the same receive half and parameters. After a pump the links and traces of two states may differ too, so
that neither is the other with a half replaced. -/
structure ReceiveAlike (s s' : State) : Prop where
  params : s'.params = s.params
  rxReceivedLen : s'.rxReceivedLen = s.rxReceivedLen
  reassemblyBuffer : s'.reassemblyBuffer = s.reassemblyBuffer
  cbValid : s'.cbValid = s.cbValid
  cbHandler : s'.cbHandler = s.cbHandler

theorem receiveAlike_receiveRelation : ReceiveRelation ReceiveAlike where
  params h := h.params
  rxReceivedLen h := h.rxReceivedLen
  setRx _ h := { h with rxReceivedLen := rfl }
  storeReassembly x bs h := { h with
    reassemblyBuffer := by rw [storeReassembly_reassemblyBuffer, storeReassembly_reassemblyBuffer, h.reassemblyBuffer] }
  complete h := by constructor <;> simp [h.params, h.reassemblyBuffer, h.cbValid, h.cbHandler]
  report _ h := { h with }

/-- The pump of `tick` writes nothing of the receive half, so two states alike there stay alike. -/
theorem receiveAlike_of_outsideTransmit {u u' : State} (hu : OutsideTransmit s u) (hu' : OutsideTransmit s' u')
    (h : ReceiveAlike s s') : ReceiveAlike u u' where
  params := by rw [hu'.params, hu.params, h.params]
  rxReceivedLen := by rw [hu'.rxReceivedLen, hu.rxReceivedLen, h.rxReceivedLen]
  reassemblyBuffer := by rw [hu'.reassemblyBuffer, hu.reassemblyBuffer, h.reassemblyBuffer]
  cbValid := by rw [hu'.cbValid, hu.cbValid, h.cbValid]
  cbHandler := by rw [hu'.cbHandler, hu.cbHandler, h.cbHandler]

theorem tick_transmit_ignores_receive {r t t' : State} (ht : exec .tick s = .next t)
    (ht' : exec .tick (withReceiveHalf r s) = .next t') :
    t'.txTotalLen = t.txTotalLen ∧ t'.txSentOffset = t.txSentOffset ∧ t'.pendingBuffer = t.pendingBuffer := by
  obtain ⟨u, ru, hu, rfl⟩ := exec_tick_next ht
  obtain ⟨u', ru', hu', rfl⟩ := exec_tick_next ht'
  have hpumps := (withReceiveHalf_transmitRelation r).pumpFragment (s := s) rfl
  rw [hu, hu'] at hpumps
  obtain ⟨rfl, -⟩ : u' = withReceiveHalf r u ∧ ru' = ru := by cases hpumps with | ok h => exact h
  have hpoll := pollAndReceive_outside u
  have hpoll' := pollAndReceive_outside (withReceiveHalf r u)
  exact ⟨hpoll'.txTotalLen.trans hpoll.txTotalLen.symm, hpoll'.txSentOffset.trans hpoll.txSentOffset.symm,
    hpoll'.pendingBuffer.trans hpoll.pendingBuffer.symm⟩

theorem tick_receive_ignores_transmit {r t t' : State} (ht : exec .tick s = .next t)
    (ht' : exec .tick (withTransmitHalf r s) = .next t') : ReceiveAlike t t' := by
  obtain ⟨u, ru, hu, rfl⟩ := exec_tick_next ht
  obtain ⟨u', ru', hu', rfl⟩ := exec_tick_next ht'
  have ho := pumpFragment_outside hu
  have ho' := pumpFragment_outside hu'
  have halike : ReceiveAlike u u' := receiveAlike_of_outsideTransmit ho ho' (by constructor <;> rfl)
  have hinbound : u'.inbound = u.inbound := ho'.inbound.trans ho.inbound.symm
  have hpoll := receiveAlike_receiveRelation.pollAndReceive hinbound { halike with }
  exact { hpoll.1 with }

/-- Settles O22: the replacement of a half is a relation that the operations on the other half keep, and `tick` is a pump
that ignores the receive half, then a poll that ignores the transmit half. -/
theorem transmitAndReceiveHalvesAreDisjoint : Obligations.TransmitAndReceiveHalvesAreDisjoint := by
  refine ⟨?sendMessage, ?pump, ?packet, ?onPacketReceived, ?setCompletionHandler, ?tickTransmit, ?tickReceive⟩
  case sendMessage =>
    exact fun r s a q n d => ((withReceiveHalf_transmitRelation r).exec_sendMessage a q n d rfl).eq_mapNext
  case pump => exact fun r s => ((withReceiveHalf_transmitRelation r).exec_pumpPendingFragment rfl).eq_mapNext
  case packet => exact fun r s p => ((withTransmitHalf_receiveRelation r).exec_packet p rfl).eq_mapNext
  case onPacketReceived =>
    exact fun r s f => ((withTransmitHalf_receiveRelation r).exec_onPacketReceived f rfl).eq_mapNext
  case setCompletionHandler => exact fun r s k => by rw [exec_setCompletionHandler, exec_setCompletionHandler]; rfl
  case tickTransmit => exact fun r s t t' ht ht' => tick_transmit_ignores_receive ht ht'
  case tickReceive =>
    intro r s t t' ht ht'
    have halike := tick_receive_ignores_transmit ht ht'
    exact ⟨halike.rxReceivedLen, halike.reassemblyBuffer, halike.cbValid, halike.cbHandler⟩

/-! ### Replacing an unregistered handler (R20) -/

/-- No handler is registered, and the second state differs at most in the handler's identifier. -/
def DiffersInIdleHandler (k : Nat) (s s' : State) : Prop := s.cbValid = false ∧ s' = { s with cbHandler := k }

/-- R85: with no handler registered, `complete` emits nothing. -/
theorem complete_of_not_cbValid (h : s.cbValid = false) : complete s = s.setRx 0 := by
  simp [complete, h]

theorem idleHandler_transmitRelation (k : Nat) : TransmitRelation (DiffersInIdleHandler k) where
  reads := by rintro s _ ⟨-, rfl⟩; constructor <;> rfl
  setTx := by rintro s _ a b ⟨hvalid, rfl⟩; exact ⟨hvalid, rfl⟩
  storePending := by rintro s _ bs ⟨hvalid, rfl⟩; exact ⟨hvalid, rfl⟩
  linkSend := by rintro s _ f ⟨hvalid, rfl⟩; exact ⟨hvalid, rfl⟩
  report := by rintro s _ o ⟨hvalid, rfl⟩; exact ⟨hvalid, rfl⟩

theorem idleHandler_receiveRelation (k : Nat) : ReceiveRelation (DiffersInIdleHandler k) where
  params := by rintro s _ ⟨-, rfl⟩; rfl
  rxReceivedLen := by rintro s _ ⟨-, rfl⟩; rfl
  setRx := by rintro s _ len ⟨hvalid, rfl⟩; exact ⟨hvalid, rfl⟩
  storeReassembly := by rintro s _ x bs ⟨hvalid, rfl⟩; exact ⟨hvalid, rfl⟩
  complete := by
    rintro s _ ⟨hvalid, rfl⟩
    have hvalid' : ({ s with cbHandler := k } : State).cbValid = false := hvalid
    rw [complete_of_not_cbValid hvalid, complete_of_not_cbValid hvalid']
    exact ⟨hvalid, rfl⟩
  report := by rintro s _ o ⟨hvalid, rfl⟩; exact ⟨hvalid, rfl⟩

theorem exec_differsInIdleHandler {k : Nat} (h : DiffersInIdleHandler k s s') {i : Instr}
    (hi : ∀ j, i ≠ .setCompletionHandler j) : RelatedOutcomes (DiffersInIdleHandler k) (exec i s) (exec i s') := by
  have hT := idleHandler_transmitRelation k
  have hR := idleHandler_receiveRelation k
  induction i using instr_kinds with
  | packet p => exact hR.exec_packet p h
  | sendMessage a q size d => exact hT.exec_sendMessage a q size d h
  | pumpPendingFragment => exact hT.exec_pumpPendingFragment h
  | onPacketReceived f => exact hR.exec_onPacketReceived f h
  | setCompletionHandler j => exact absurd rfl (hi j)
  | tick =>
    refine exec_tick_related hT hR ?_ ?_ h
    · rintro t _ ⟨-, rfl⟩; rfl
    · rintro t _ ⟨hvalid, rfl⟩; exact ⟨hvalid, rfl⟩

/-- Settles O23: only `complete` reads the handler, and only when one is registered. -/
theorem handlerIsUnobservableUntilRegistered : Obligations.HandlerIsUnobservableUntilRegistered := by
  intro i s k hvalid hi
  have h : DiffersInIdleHandler k s { s with cbHandler := k } := ⟨hvalid, rfl⟩
  exact ((exec_differsInIdleHandler h hi).mono fun hdiffers => hdiffers.2).eq_mapNext

end Sys2Proof.Machine
end

section
/-! Where payload bytes have their place: the address map of the reassembly buffer and its address arithmetic (spec
20_memory.md R36, R43, R44). -/

namespace Sys2Proof.Machine

/-! ### The receiver's offset -/

/-- R36: every fragment lies above the lead chunk. -/
theorem initCapacity_le_fragmentOffset (P : Params) (k : Nat) : P.initCapacity ≤ fragmentOffset P k :=
  Nat.le_add_right _ _

/-- R36: an address inside a fragment's region tells the fragment's index, so two regions never meet. -/
theorem index_of_fragmentOffset_add {P : Params} {x : Nat} (hx : x < P.dataCapacity) (k : Nat) :
    (fragmentOffset P k + x - P.initCapacity) / P.dataCapacity = k := by
  have hplace : fragmentOffset P k + x - P.initCapacity = x + k * P.dataCapacity := by
    simp only [fragmentOffset]
    omega
  rw [hplace, Nat.add_mul_div_right x k (Nat.zero_lt_of_lt hx), Nat.div_eq_of_lt hx, Nat.zero_add]

/-- R44: fragment `i / DATA_CAPACITY` carries byte `i` of the pending bytes at data index `i % DATA_CAPACITY`. -/
theorem fragmentOffset_div_add_mod (P : Params) (i : Nat) :
    fragmentOffset P (i / P.dataCapacity) + i % P.dataCapacity = P.initCapacity + i := by
  rw [fragmentOffset, Nat.add_assoc, Nat.div_add_mod']

/-- R43: the largest offset, `255 + 255 * 255`. -/
theorem fragmentOffset_le_of_legal {P : Params} {k : Nat} (hP : P.Legal) (hk : k < 256) : fragmentOffset P k ≤ 65280 := by
  obtain ⟨⟨-, hinit, -, hdata⟩, -⟩ := hP
  calc fragmentOffset P k ≤ 255 + 255 * 255 := Nat.add_le_add hinit (Nat.mul_le_mul (Nat.le_of_lt_succ hk) hdata)
    _ = 65280 := rfl

/-! ### The sender's index -/

/-- R4 P3: the pending buffer holds at most 256 fragments. -/
theorem pendingSize_le_of_legal {P : Params} (hP : P.Legal) : P.pendingSize ≤ 256 * P.dataCapacity := by
  obtain ⟨-, -, hbuffer, -⟩ := hP
  simp only [Params.pendingSize]
  omega

/-- R26: the next fragment starts inside the pending buffer. -/
theorem txSentOffset_lt_pendingSize {s : State} (h : s.Inv) (hactive : s.txTotalLen ≠ 0) :
    s.txSentOffset.toNat < s.params.pendingSize :=
  (h.offsetBound hactive).trans_le h.totalBound

/-- R43: the index the sender writes fits the packet's 8-bit field. -/
theorem nextIndex_lt {s : State} (h : s.Inv) (hactive : s.txTotalLen ≠ 0) : nextIndex s < 256 :=
  Nat.div_lt_of_lt_mul <|
    calc s.txSentOffset.toNat < s.params.pendingSize := txSentOffset_lt_pendingSize h hactive
      _ ≤ 256 * s.params.dataCapacity := pendingSize_le_of_legal h.legal
      _ = s.params.dataCapacity * 256 := Nat.mul_comm _ _

/-! ### The statements -/

/-- Settles O51: a shared address would have two fragment indices, and division with remainder finds the place of byte
`j`. -/
theorem fragmentRegionsDoNotOverlap : Obligations.FragmentRegionsDoNotOverlap := by
  constructor
  · intro P k k' x x' hx hx' hne
    refine ⟨(initCapacity_le_fragmentOffset P k).trans (Nat.le_add_right _ x), fun hsame => hne ?_⟩
    calc k = (fragmentOffset P k + x - P.initCapacity) / P.dataCapacity := (index_of_fragmentOffset_add hx k).symm
      _ = (fragmentOffset P k' + x' - P.initCapacity) / P.dataCapacity := by rw [hsame]
      _ = k' := index_of_fragmentOffset_add hx' k'
  · intro P j hj
    rw [fragmentOffset_div_add_mod, Nat.add_sub_cancel' hj]

/-- Settles O50: legal parameters bound the receiver's offset, and the session's offset stays inside the pending buffer. -/
theorem offsetsAndIndicesNeverWrap : Obligations.OffsetsAndIndicesNeverWrap := by
  refine ⟨fun P k hP hk => fragmentOffset_le_of_legal hP hk, fun s h hactive => ⟨?_, ?_⟩⟩
  · exact Nat.div_le_div_right (Nat.le_sub_one_of_lt (txSentOffset_lt_pendingSize h hactive))
  · exact Nat.le_of_lt_succ (nextIndex_lt h hactive)

end Sys2Proof.Machine
end

section
/-! The wire layout as one equivalence: a frame decodes to a packet exactly when the packet is well-formed and the frame begins
with its encoding (spec 30_encoding.md R52, R55, R60; 40_codec.md R67, R68, R70). The statements about encoding follow from it
and from the layout of command words (30_encoding.md R56, R57; log entries 2 and 3). -/

namespace Sys2Proof.Machine

/-! ### Well-formed packets (R60) and their frames (R52, R61, R67) -/

theorem wf_init_iff {P : Params} {l : Bool} {c : Byte} {a : Address} {q : Port} {n : Byte} {d : List Byte} :
    (Packet.init l c a q n d).wf P = true ↔ n.toNat ≤ P.initCapacity ∧ d.length = n.toNat := by
  simp [Packet.wf]

theorem wf_data_iff {P : Params} {l : Bool} {c k n : Byte} {d : List Byte} :
    (Packet.data l c k n d).wf P = true ↔ n.toNat ≤ P.dataCapacity ∧ d.length = n.toNat := by
  simp [Packet.wf]

theorem encodePacket_init {n : Byte} {d : List Byte} (hlen : d.length = n.toNat) (l : Bool) (c : Byte) (a : Address)
    (q : Port) :
    encodePacket (.init l c a q n d) = flagsByte false l :: c :: (addressBytes a ++ halfBytes q ++ n :: d) := by
  simp [encodePacket, ← hlen]

theorem encodePacket_data {n : Byte} {d : List Byte} (hlen : d.length = n.toNat) (l : Bool) (c k : Byte) :
    encodePacket (.data l c k n d) = flagsByte true l :: c :: k :: n :: d := by
  simp [encodePacket, ← hlen]

/-- R52: a well-formed packet occupies its header and `dataLen` bytes. -/
theorem length_encodePacket {P : Params} {p : Packet} (hwf : p.wf P = true) :
    (encodePacket p).length = packetLength p := by
  cases p with
  | init l c a q n d =>
    obtain ⟨-, hlen⟩ := wf_init_iff.1 hwf
    rw [encodePacket_init hlen, packetLength, initHeaderSize, ← hlen, Nat.add_comm]
    rfl
  | data l c k n d =>
    obtain ⟨-, hlen⟩ := wf_data_iff.1 hwf
    rw [encodePacket_data hlen, packetLength, dataHeaderSize, ← hlen, Nat.add_comm]
    rfl

/-- R61, from P4 of R4: the link carries the longest packet of either type. -/
theorem packetLength_le_linkMtu {P : Params} {p : Packet} (hP : P.Legal) (hwf : p.wf P = true) :
    packetLength p ≤ P.linkMtu := by
  obtain ⟨-, -, -, hmtu, -⟩ := hP
  obtain ⟨hinit, hdata⟩ := max_le_iff.1 hmtu
  cases p with
  | init l c a q n d =>
    obtain ⟨hcap, -⟩ := wf_init_iff.1 hwf
    exact (Nat.add_le_add_left hcap _).trans hinit
  | data l c k n d =>
    obtain ⟨hcap, -⟩ := wf_data_iff.1 hwf
    exact (Nat.add_le_add_left hcap _).trans hdata

/-! ### What the decoder accepts (R54, R68) -/

/-- R46: a legal FLAGS byte selects the branch of the decoder. -/
theorem decodeFrame_flagsByte (P : Params) (isData l : Bool) (body : List Byte) :
    decodeFrame P (flagsByte isData l :: body) =
      if isData then decodeDataBody P l body else decodeInitBody P l body := by
  obtain ⟨hreserved, htype, hlast⟩ := flagsByte_fields isData l
  simp [decodeFrame, hreserved, htype, hlast]

/-- M1 and M2 of R54: what decodes begins with a legal FLAGS byte. -/
theorem flagsByte_of_decodeFrame {P : Params} {f : Frame} {p : Packet} (h : decodeFrame P f = .ok p) :
    ∃ isData l body, f = flagsByte isData l :: body := by
  cases f with
  | nil => cases h
  | cons b body =>
    by_cases hreserved : b.extractLsb' 2 6 = 0
    · exact ⟨b[0], b[1], body, by rw [flagsByte_of_fields b hreserved]⟩
    · rw [decodeFrame, if_pos hreserved] at h
      cases h

/-- M3 to M5 of R54 for INIT: what passes them is a well-formed packet's encoding and the bytes after it. -/
theorem decodeInitBody_ok {P : Params} {l : Bool} {body : List Byte} {p : Packet} (h : decodeInitBody P l body = .ok p) :
    p.wf P = true ∧ ∃ extra, flagsByte false l :: body = encodePacket p ++ extra := by
  unfold decodeInitBody at h
  split at h
  next c a3 a2 a1 a0 p1 p0 n rest =>
    split at h
    · cases h
    next hcap =>
      split at h
      · cases h
      next hrest =>
        cases h
        have hlen : (rest.take n.toNat).length = n.toNat := List.length_take_of_le (Nat.le_of_not_lt hrest)
        refine ⟨wf_init_iff.2 ⟨Nat.le_of_not_lt hcap, hlen⟩, rest.drop n.toNat, ?_⟩
        simp [encodePacket_init hlen, addressBytes_addressOfBytes, halfBytes_halfOfBytes]
  · cases h

/-- M3 to M5 of R54 for DATA: what passes them is a well-formed packet's encoding and the bytes after it. -/
theorem decodeDataBody_ok {P : Params} {l : Bool} {body : List Byte} {p : Packet} (h : decodeDataBody P l body = .ok p) :
    p.wf P = true ∧ ∃ extra, flagsByte true l :: body = encodePacket p ++ extra := by
  unfold decodeDataBody at h
  split at h
  next c k n rest =>
    split at h
    · cases h
    next hcap =>
      split at h
      · cases h
      next hrest =>
        cases h
        have hlen : (rest.take n.toNat).length = n.toNat := List.length_take_of_le (Nat.le_of_not_lt hrest)
        refine ⟨wf_data_iff.2 ⟨Nat.le_of_not_lt hcap, hlen⟩, rest.drop n.toNat, ?_⟩
        simp [encodePacket_data hlen]
  · cases h

/-- R55: the decoder reads a well-formed packet back from its encoding, whatever bytes follow. -/
theorem decodeFrame_encodePacket_append {P : Params} {p : Packet} (hwf : p.wf P = true) (extra : Frame) :
    decodeFrame P (encodePacket p ++ extra) = .ok p := by
  cases p with
  | init l c a q n d =>
    obtain ⟨hcap, hlen⟩ := wf_init_iff.1 hwf
    simp [encodePacket_init hlen, addressBytes, halfBytes, decodeFrame_flagsByte, decodeInitBody, hlen.trans_le hcap,
      ← hlen, addressOfBytes_addressBytes, halfOfBytes_halfBytes]
  | data l c k n d =>
    obtain ⟨hcap, hlen⟩ := wf_data_iff.1 hwf
    simp [encodePacket_data hlen, decodeFrame_flagsByte, decodeDataBody, hlen.trans_le hcap, ← hlen]

/-- What a frame decodes to: the well-formed packet whose encoding it begins with. -/
theorem decodeFrame_eq_ok_iff {P : Params} {f : Frame} {p : Packet} :
    decodeFrame P f = .ok p ↔ p.wf P = true ∧ ∃ extra, f = encodePacket p ++ extra := by
  constructor
  · intro h
    obtain ⟨isData, l, body, rfl⟩ := flagsByte_of_decodeFrame h
    rw [decodeFrame_flagsByte] at h
    cases isData with
    | false => exact decodeInitBody_ok h
    | true => exact decodeDataBody_ok h
  · rintro ⟨hwf, extra, rfl⟩
    exact decodeFrame_encodePacket_append hwf extra

/-! ### Packets as instructions (R62) -/

theorem encode_toInstr (P : Params) (p : Packet) : encode P p.toInstr = .frame (encodePacket p) := by
  cases p with
  | init l => cases l <;> rfl
  | data l => cases l <;> rfl

theorem wf_toInstr (P : Params) (p : Packet) : p.toInstr.wf P = p.wf P := by
  cases p with
  | init l => cases l <;> rfl
  | data l => cases l <;> rfl

theorem decode_frame_of_ok {P : Params} {f : Frame} {p : Packet} (h : decodeFrame P f = .ok p) :
    decode P (.frame f) = .ok p.toInstr := by
  simp [decode, h]

/-- R82: processing a frame that decodes is running its packet's instruction. -/
theorem exec_onPacketReceived_of_decodeFrame {s : State} {f : Frame} {p : Packet} (h : decodeFrame s.params f = .ok p) :
    exec (.onPacketReceived f) s = exec p.toInstr s := by
  have hreceive : receiveFrame f s = receivePacket p s := by simp [receiveFrame, h]
  rw [exec_onPacketReceived, exec_packet, hreceive]

/-! ### Commands (R56, R57) -/

theorem decodeSendOperands_of_length {size : Len} {d : List Byte} (hlen : d.length = size.toNat) (a : Address) (q : Port) :
    decodeSendOperands (addressBytes a ++ halfBytes q ++ halfBytes size ++ d) = .ok (.sendMessage a q size d) := by
  simp [decodeSendOperands, addressBytes, halfBytes, addressOfBytes_addressBytes, halfOfBytes_halfBytes, ← hlen]

/-- `HANDLER_W` bits fit the operand's bytes, so none is lost. -/
theorem decodeHandlerOperand_bytesOfNat {P : Params} {k : Nat} (hk : k < 2 ^ P.handlerW) :
    decodeHandlerOperand P (bytesOfNat (handlerBytes P) k) = .ok (.setCompletionHandler k) := by
  have hbytes : natOfBytes (bytesOfNat (handlerBytes P) k) = k :=
    natOfBytes_bytesOfNat _ _ (hk.trans_le (two_pow_handlerW_le P))
  have htake : (bytesOfNat (handlerBytes P) k).take (handlerBytes P) = bytesOfNat (handlerBytes P) k :=
    List.take_of_length_le (bytesOfNat_length _ _).le
  simp [decodeHandlerOperand, htake, hbytes, Nat.mod_eq_of_lt hk]

/-- R57: the operation codes that name no operation. -/
theorem decode_command_reserved {word : Byte}
    (hcode : (word.extractLsb' 0 3).toNat = 0 ∨ (word.extractLsb' 0 3).toNat = 6 ∨ (word.extractLsb' 0 3).toNat = 7)
    (P : Params) (operands : List Byte) : decode P (.command (word :: operands)) = .error .reservedOpcode := by
  rcases hcode with hcode | hcode | hcode <;> simp only [decode, decodeCommand, hcode]

theorem runWord_of_decode_error {s : State} {w : InstrWord} {e : DecodeError} (h : decode s.params w = .error e) :
    runWord w s = rejectWord e s := by
  simp [runWord, h]

/-! ### The statements -/

/-- Settles O3, by the kinds of instruction: a packet's frame is its own encoding with nothing after it, and the operands of
the two commands that carry fields are read back byte by byte. -/
theorem decodeOfEncodeIsTheInstruction : Obligations.DecodeOfEncodeIsTheInstruction := by
  intro P i hwf
  induction i using instr_kinds with
  | packet p =>
    rw [wf_toInstr] at hwf
    rw [encode_toInstr]
    exact decode_frame_of_ok (decodeFrame_eq_ok_iff.2 ⟨hwf, [], (List.append_nil _).symm⟩)
  | sendMessage a q size d => exact decodeSendOperands_of_length (of_decide_eq_true hwf) a q
  | pumpPendingFragment => rfl
  | onPacketReceived f => rfl
  | setCompletionHandler k => exact decodeHandlerOperand_bytesOfNat (of_decide_eq_true hwf)
  | tick => rfl

/-- Settles O6: what decodes is well-formed, and legal parameters give the link room for the longest packet. -/
theorem wellFormedPacketsFitTheLink : Obligations.WellFormedPacketsFitTheLink := by
  constructor
  · intro P f p h
    obtain ⟨hwf, -⟩ := decodeFrame_eq_ok_iff.1 h
    exact hwf
  · exact fun P p hP hwf => ⟨length_encodePacket hwf, packetLength_le_linkMtu hP hwf⟩

/-- Settles O7: a longer frame begins with the same encoding, so both frames run the same packet's instruction. -/
theorem trailingBytesAreIgnored : Obligations.TrailingBytesAreIgnored := by
  intro s f extra p h
  obtain ⟨hwf, after, hf⟩ := decodeFrame_eq_ok_iff.1 h
  have hlonger : decodeFrame s.params (f ++ extra) = .ok p :=
    decodeFrame_eq_ok_iff.2 ⟨hwf, after ++ extra, by rw [hf, List.append_assoc]⟩
  refine ⟨hlonger, ?_⟩
  calc exec (.onPacketReceived (f ++ extra)) s = exec p.toInstr s := exec_onPacketReceived_of_decodeFrame hlonger
    _ = exec (.onPacketReceived f) s := (exec_onPacketReceived_of_decodeFrame h).symm

/-- Settles O2: V2, V5, V6, V9 and the two commands, each evaluated by the decoder. -/
theorem wordsWrittenFromTheSpecDecode : Obligations.WordsWrittenFromTheSpecDecode :=
  ⟨by decide, by decide, by decide, by decide, by decide, by decide⟩

/-- Settles O8: the transaction is rejected, which adds one outcome to the state and nothing else. -/
theorem reservedOperationCodesAreIgnored : Obligations.ReservedOperationCodesAreIgnored := by
  intro s word operands rest hinputs hcode
  have hstep : step s = .next ((s.setInputs rest).report (.single ⟨.illegalCommand, false⟩)) :=
    calc step s = runWord (.command (word :: operands)) (s.setInputs rest) := step_of_word hinputs
      _ = rejectWord .reservedOpcode (s.setInputs rest) :=
        runWord_of_decode_error (decode_command_reserved hcode _ operands)
      _ = .next ((s.setInputs rest).report (.single ⟨.illegalCommand, false⟩)) := rfl
  refine ⟨_, hstep, ⟨⟨rfl, rfl, fun _ => rfl⟩, ⟨rfl, fun _ => rfl⟩, ⟨rfl, rfl⟩, ⟨rfl, rfl⟩, ⟨rfl, rfl, rfl⟩⟩, ?_, rfl⟩
  exact (List.append_nil s.trace).symm

end Sys2Proof.Machine
end

section
/-! The codec by the bytes of a frame (spec 40_codec.md): the round-trip laws (R70), decoding by positions (R68), and the
checksum as the exclusive OR of the bytes it covers (R65, R66), from which the effect of a flipped bit and of a reordering
follows (R69; 90_conflicts.md C3). -/

namespace Sys2Proof.Machine

/-! ### Round trips (R70) -/

theorem decodeFrame_encodePacket {P : Params} {p : Packet} (hwf : p.wf P = true) : decodeFrame P (encodePacket p) = .ok p :=
  decodeFrame_eq_ok_iff.2 ⟨hwf, [], (List.append_nil _).symm⟩

/-- Settles O4: a frame that decodes is an encoding followed by trailing bytes, and a packet is read back from its own. -/
theorem packetRoundTripLaws : Obligations.PacketRoundTripLaws := by
  refine ⟨fun P p hwf => decodeFrame_encodePacket hwf, fun P f p h => ?_, fun P p q hp hq heq => ?_⟩
  · obtain ⟨hwf, extra, rfl⟩ := decodeFrame_eq_ok_iff.1 h
    rw [← length_encodePacket hwf, List.take_left]
  · have hsame : (.ok p : Except FrameError Packet) = .ok q :=
      calc .ok p = decodeFrame P (encodePacket p) := (decodeFrame_encodePacket hp).symm
        _ = decodeFrame P (encodePacket q) := by rw [heq]
        _ = .ok q := decodeFrame_encodePacket hq
    exact Except.ok.inj hsame

/-! ### Decoding by positions (R68) -/

/-- M3 of R54 for INIT. -/
theorem decodeInitBody_of_short {P : Params} {l : Bool} {body : List Byte} (h : body.length < 8) :
    decodeInitBody P l body = .error .shortHeader := by
  unfold decodeInitBody
  split
  · simp only [List.length_cons] at h
    omega
  · rfl

/-- M3 of R54 for DATA. -/
theorem decodeDataBody_of_short {P : Params} {l : Bool} {body : List Byte} (h : body.length < 3) :
    decodeDataBody P l body = .error .shortHeader := by
  unfold decodeDataBody
  split
  · simp only [List.length_cons] at h
    omega
  · rfl

/-- A list that reaches past position `k` is cut there into the bytes before, the byte at `k` and the bytes after. -/
theorem drop_eq_getD_cons {k : Nat} {bs : List Byte} (h : k < bs.length) : bs.drop k = bs.getD k 0 :: bs.drop (k + 1) := by
  rw [List.drop_eq_getElem_cons h, List.getD_eq_getElem _ _ h]

theorem eq_initHeader_append {body : List Byte} (h : 8 ≤ body.length) :
    body = body.getD 0 0 :: body.getD 1 0 :: body.getD 2 0 :: body.getD 3 0 :: body.getD 4 0 :: body.getD 5 0 ::
      body.getD 6 0 :: body.getD 7 0 :: body.drop 8 := by
  rw [← drop_eq_getD_cons (by omega), ← drop_eq_getD_cons (by omega), ← drop_eq_getD_cons (by omega),
    ← drop_eq_getD_cons (by omega), ← drop_eq_getD_cons (by omega), ← drop_eq_getD_cons (by omega),
    ← drop_eq_getD_cons (by omega), ← drop_eq_getD_cons (by omega), List.drop_zero]

theorem eq_dataHeader_append {body : List Byte} (h : 3 ≤ body.length) :
    body = body.getD 0 0 :: body.getD 1 0 :: body.getD 2 0 :: body.drop 3 := by
  rw [← drop_eq_getD_cons (by omega), ← drop_eq_getD_cons (by omega), ← drop_eq_getD_cons (by omega), List.drop_zero]

/-- R68 for INIT, with M3 to M5 of R54: `body` is the frame after its FLAGS byte. -/
theorem decodeInitBody_eq (P : Params) (l : Bool) (body : List Byte) :
    decodeInitBody P l body =
      if body.length + 1 < 9 then .error .shortHeader
      else if P.initCapacity < (body.getD 7 0).toNat then .error .dataLenAboveCapacity
      else if body.length + 1 < 9 + (body.getD 7 0).toNat then .error .truncatedPayload
      else .ok (.init l (body.getD 0 0)
        (addressOfBytes (body.getD 1 0) (body.getD 2 0) (body.getD 3 0) (body.getD 4 0))
        (halfOfBytes (body.getD 5 0) (body.getD 6 0)) (body.getD 7 0)
        ((body.drop 8).take (body.getD 7 0).toNat)) := by
  by_cases hshort : body.length + 1 < 9
  · rw [if_pos hshort, decodeInitBody_of_short (by omega)]
  · have htruncated (n : Nat) : (body.drop 8).length < n ↔ body.length + 1 < 9 + n := by
      rw [List.length_drop]
      omega
    conv_lhs => rw [eq_initHeader_append (by omega : 8 ≤ body.length), decodeInitBody]
    simp only [if_neg hshort, htruncated]

/-- R68 for DATA, with M3 to M5 of R54: `body` is the frame after its FLAGS byte. -/
theorem decodeDataBody_eq (P : Params) (l : Bool) (body : List Byte) :
    decodeDataBody P l body =
      if body.length + 1 < 4 then .error .shortHeader
      else if P.dataCapacity < (body.getD 2 0).toNat then .error .dataLenAboveCapacity
      else if body.length + 1 < 4 + (body.getD 2 0).toNat then .error .truncatedPayload
      else .ok (.data l (body.getD 0 0) (body.getD 1 0) (body.getD 2 0)
        ((body.drop 3).take (body.getD 2 0).toNat)) := by
  by_cases hshort : body.length + 1 < 4
  · rw [if_pos hshort, decodeDataBody_of_short (by omega)]
  · have htruncated (n : Nat) : (body.drop 3).length < n ↔ body.length + 1 < 4 + n := by
      rw [List.length_drop]
      omega
    conv_lhs => rw [eq_dataHeader_append (by omega : 3 ≤ body.length), decodeDataBody]
    simp only [if_neg hshort, htruncated]

/-- Settles O5: M1 is the empty frame, M2 and the type are read off FLAGS, and each type's branch is given by positions. -/
theorem decodeByBytePositions : Obligations.DecodeByBytePositions := by
  intro P f
  cases f with
  | nil => rfl
  | cons flags body =>
    have hnonempty : ¬ (flags :: body).length < 1 := by simp
    rw [if_neg hnonempty, decodeFrame]
    by_cases hreserved : flags.extractLsb' 2 6 ≠ 0
    · exact (if_pos hreserved).trans (if_pos hreserved).symm
    · refine (if_neg hreserved).trans (Eq.trans ?_ (if_neg hreserved).symm)
      simp only [List.getD_cons_zero, List.getD_cons_succ, List.length_cons, List.drop_succ_cons]
      cases flags.getLsbD 0 with
      | false => exact decodeInitBody_eq P _ body
      | true => exact decodeDataBody_eq P _ body

/-! ### The checksum as an exclusive OR (R65, R66) -/

theorem calcChecksum_init (l : Bool) (c : Byte) (a : Address) (q : Port) (n : Byte) (d : List Byte) :
    calcChecksum (.init l c a q n d) =
      flagsByte false l ^^^ xorFold 0 (addressBytes a) ^^^ n ^^^ xorFold 0 (d.take n.toNat) := by
  rw [calcChecksum, xorFold_start (_ ^^^ n), xorFold_start (Packet.flags _)]
  rfl

theorem calcChecksum_data (l : Bool) (c k n : Byte) (d : List Byte) :
    calcChecksum (.data l c k n d) = flagsByte true l ^^^ k ^^^ n ^^^ xorFold 0 (d.take n.toNat) := by
  rw [calcChecksum, xorFold_start]
  rfl

/-- Settles O9: the frame begins with the packet's encoding, whose covered bytes are the terms of the checksum. -/
theorem checksumFoldsTheCoveredBytes : Obligations.ChecksumFoldsTheCoveredBytes := by
  constructor
  · intro P f l c a q n d h
    obtain ⟨hwf, extra, rfl⟩ := decodeFrame_eq_ok_iff.1 h
    obtain ⟨-, hlen⟩ := wf_init_iff.1 hwf
    have hcovered : (n :: (d ++ extra)).take (1 + d.length) = n :: d := by
      rw [Nat.add_comm, List.take_succ_cons, List.take_left]
    simp [encodePacket_init hlen, addressBytes, halfBytes, hcovered, calcChecksum, Packet.flags, ← hlen]
  · intro P f l c k n d h
    obtain ⟨hwf, extra, rfl⟩ := decodeFrame_eq_ok_iff.1 h
    obtain ⟨-, hlen⟩ := wf_data_iff.1 hwf
    have hcovered : (k :: n :: (d ++ extra)).take (2 + d.length) = k :: n :: d := by
      rw [Nat.add_comm, List.take_succ_cons, List.take_succ_cons, List.take_left]
    simp [encodePacket_data hlen, hcovered, calcChecksum, Packet.flags, ← hlen]

/-! ### Flipped bits (R66 item 2, R69) -/

/-- Changing one folded byte by a mask changes the fold by the same mask. -/
theorem xorFold_set (c m : Byte) {bs : List Byte} {i : Nat} (hi : i < bs.length) :
    xorFold c (bs.set i (bs.getD i 0 ^^^ m)) = xorFold c bs ^^^ m := by
  induction bs generalizing c i with
  | nil => cases hi
  | cons b bs ih =>
    cases i with
    | zero =>
      calc xorFold c ((b ^^^ m) :: bs) = c ^^^ (b ^^^ m) ^^^ xorFold 0 bs := by rw [xorFold_cons, xorFold_start]
        _ = c ^^^ b ^^^ xorFold 0 bs ^^^ m := by ac_rfl
        _ = xorFold c (b :: bs) ^^^ m := by rw [xorFold_cons, xorFold_start (c ^^^ b)]
    | succ i => exact ih (c ^^^ b) (Nat.lt_of_succ_lt_succ hi)

/-- A payload byte among the first `dataLen` is covered. -/
theorem xorFold_take_set (m : Byte) {d : List Byte} {i n : Nat} (hn : i < n) (hi : i < d.length) :
    xorFold 0 ((d.set i (d.getD i 0 ^^^ m)).take n) = xorFold 0 (d.take n) ^^^ m := by
  have htake : i < (d.take n).length := by simpa using ⟨hn, hi⟩
  have hbyte : d.getD i 0 = (d.take n).getD i 0 := by simp [List.getD_eq_getElem?_getD, hn]
  rw [List.take_set, hbyte, xorFold_set 0 m htake]

/-- The fold of an address is linear in the address. -/
theorem xorFold_addressBytes_xor (a b : Address) :
    xorFold 0 (addressBytes (a ^^^ b)) = xorFold 0 (addressBytes a) ^^^ xorFold 0 (addressBytes b) := by
  simp only [addressBytes, xorFold_cons, xorFold_nil, BitVec.extractLsb'_xor]
  ac_rfl

/-- A bit of an address falls on the bit of the checksum with the same place in its byte. -/
theorem xorFold_addressBytes_bit : ∀ j < 32, xorFold 0 (addressBytes (1#32 <<< j)) = 1#8 <<< (j % 8) := by decide

theorem flagsByte_not (isData l : Bool) : flagsByte isData (!l) = flagsByte isData l ^^^ 2#8 := by
  cases isData <;> cases l <;> decide

theorem bit_ne_zero : ∀ j < 8, (1#8 <<< j) ≠ 0 := by decide

/-- A field that equals `c` does not after a flip. -/
theorem xor_bit_beq_self {j : Nat} (hj : j < 8) (c : Byte) : ((c ^^^ (1#8 <<< j)) == c) = false := by
  rw [beq_eq_false_iff_ne]
  intro heq
  exact bit_ne_zero j hj (by simpa using heq)

/-- Settles O10: the checksum is an exclusive OR, so a flip of one term is a flip of the whole; the gate compares it with a
field that it does not cover. -/
theorem oneCoveredBitFlipsOneChecksumBit : Obligations.OneCoveredBitFlipsOneChecksumBit := by
  refine ⟨?initPayload, ?dataPayload, ?address, ?fragmentIndex, ?initLast, ?dataLast, ?initGate, ?dataGate⟩
  case initPayload =>
    intro l c a q n d i j hn hi _
    rw [calcChecksum_init, calcChecksum_init, xorFold_take_set _ hn hi]
    ac_rfl
  case dataPayload =>
    intro l c k n d i j hn hi _
    rw [calcChecksum_data, calcChecksum_data, xorFold_take_set _ hn hi]
    ac_rfl
  case address =>
    intro l c a q n d j hj
    rw [calcChecksum_init, calcChecksum_init, xorFold_addressBytes_xor, xorFold_addressBytes_bit j hj]
    ac_rfl
  case fragmentIndex =>
    intro l c k n d j _
    rw [calcChecksum_data, calcChecksum_data]
    ac_rfl
  case initLast =>
    intro l c a q n d
    rw [calcChecksum_init, calcChecksum_init, flagsByte_not]
    ac_rfl
  case dataLast =>
    intro l c k n d
    rw [calcChecksum_data, calcChecksum_data, flagsByte_not]
    ac_rfl
  case initGate =>
    intro l c a q n d j hj hvalid
    have hc : c = calcChecksum (.init l c a q n d) := eq_of_beq hvalid
    calc packetValid (.init l (c ^^^ (1#8 <<< j)) a q n d)
        = ((c ^^^ (1#8 <<< j)) == calcChecksum (.init l c a q n d)) := rfl
      _ = false := by rw [← hc]; exact xor_bit_beq_self hj c
  case dataGate =>
    intro l c k n d j hj hvalid
    have hc : c = calcChecksum (.data l c k n d) := eq_of_beq hvalid
    calc packetValid (.data l (c ^^^ (1#8 <<< j)) k n d)
        = ((c ^^^ (1#8 <<< j)) == calcChecksum (.data l c k n d)) := rfl
      _ = false := by rw [← hc]; exact xor_bit_beq_self hj c

/-! ### Reordered bytes (R66 item 3, C3) -/

theorem xorFold_perm (c : Byte) {as bs : List Byte} (h : as.Perm bs) : xorFold c as = xorFold c bs :=
  h.foldl_eq' (fun _ _ _ _ _ => by ac_rfl) c

/-- The whole payload is covered, so its order does not matter. -/
theorem xorFold_take_perm {d d' : List Byte} {n : Nat} (h : d.Perm d') (hlen : d.length = n) :
    xorFold 0 (d.take n) = xorFold 0 (d'.take n) := by
  rw [List.take_of_length_le hlen.le, List.take_of_length_le (h.length_eq.symm.trans hlen).le, xorFold_perm 0 h]

/-- Settles O11: exclusive OR does not depend on the order of its terms. -/
theorem checksumIgnoresByteOrder : Obligations.ChecksumIgnoresByteOrder := by
  refine ⟨?_, ?_, ?_⟩
  · intro l c a q n d d' h hlen
    rw [calcChecksum_init, calcChecksum_init, xorFold_take_perm h hlen]
  · intro l c k n d d' h hlen
    rw [calcChecksum_data, calcChecksum_data, xorFold_take_perm h hlen]
  · intro l c q n d b3 b2 b1 b0 c3 c2 c1 c0 h
    rw [calcChecksum_init, calcChecksum_init, addressBytes_addressOfBytes, addressBytes_addressOfBytes, xorFold_perm 0 h]

end Sys2Proof.Machine
end

section
/-! The frames a step writes on the link (spec 41_transmit.md R73, R75): each is the encoding of a sealed well-formed packet,
which is why a peer with the same capacities accepts it (40_codec.md R67, R69, R72; 30_encoding.md R61). -/

namespace Sys2Proof.Machine

/-! ### Which writes a run of events may hold -/

/-- The events between `s` and `t` write only frames that `Good` allows. -/
def WritesOnly (Good : Frame → Prop) (s t : State) : Prop :=
  ∃ events, t.trace = s.trace ++ events ∧ ∀ f, .linkWrite f ∈ events → Good f

section
variable {Good : Frame → Prop} {s t u : State}

theorem writesOnly_of_trace_eq (h : t.trace = s.trace) : WritesOnly Good s t := ⟨[], by simp [h], by simp⟩

theorem WritesOnly.trans (hst : WritesOnly Good s t) (htu : WritesOnly Good t u) : WritesOnly Good s u := by
  obtain ⟨before, htrace, hbefore⟩ := hst
  obtain ⟨after, htrace', hafter⟩ := htu
  refine ⟨before ++ after, by rw [htrace', htrace, List.append_assoc], fun f hf => ?_⟩
  rcases List.mem_append.1 hf with hf | hf
  · exact hbefore f hf
  · exact hafter f hf

/-- The events after `s` are what the trace of `t` adds, so they are the ones the claim is about. -/
theorem WritesOnly.good_of_mem (h : WritesOnly Good s t) {events : List OutEvent} {f : Frame}
    (htrace : t.trace = s.trace ++ events) (hf : .linkWrite f ∈ events) : Good f := by
  obtain ⟨events', htrace', hgood⟩ := h
  have hsame : events' = events := List.append_cancel_left (htrace'.symm.trans htrace)
  exact hgood f (hsame ▸ hf)

theorem linkSend_writesOnly {f : Frame} (hf : Good f) (s : State) : WritesOnly Good s (linkSend f s) := by
  refine ⟨[.linkStop, .linkWrite f, .linkResume], rfl, fun g hg => ?_⟩
  have hgf : g = f := by simpa using hg
  exact hgf ▸ hf

/-! ### The receive side writes nothing (R93) -/

theorem complete_writesOnly (s : State) : WritesOnly Good s (complete s) := by
  unfold complete
  split
  · exact ⟨[.done s.cbHandler s.rxReceivedLen (snapshot s)], rfl, by simp⟩
  · exact writesOnly_of_trace_eq rfl

theorem endPacket_writesOnly (isLast : Bool) (c : Cause) (s : State) : WritesOnly Good s (endPacket isLast c s).1 := by
  cases isLast with
  | false => exact writesOnly_of_trace_eq rfl
  | true => exact complete_writesOnly s

theorem receivePacket_writesOnly (p : Packet) (s : State) : WritesOnly Good s (receivePacket p s).1 := by
  obtain ⟨x, bs, len, l, c, h | h | ⟨h, -⟩⟩ := receivePacket_effect p s <;> rw [h]
  · exact writesOnly_of_trace_eq rfl
  · exact endPacket_writesOnly l c s
  · exact (writesOnly_of_trace_eq rfl).trans (endPacket_writesOnly l c ((storeReassembly s x bs).setRx len))

theorem receiveFrame_writesOnly (f : Frame) (s : State) : WritesOnly Good s (receiveFrame f s).1 := by
  rcases receiveFrame_cases f s with ⟨e, -, h⟩ | ⟨p, -, h⟩ <;> rw [h]
  · exact writesOnly_of_trace_eq rfl
  · exact receivePacket_writesOnly p s

theorem pollAndReceive_writesOnly (s : State) : WritesOnly Good s (pollAndReceive s).1 := by
  rcases pollAndReceive_cases s with ⟨-, h⟩ | ⟨fs, f, -, h⟩ <;> rw [h]
  · exact writesOnly_of_trace_eq rfl
  · exact (writesOnly_of_trace_eq rfl).trans (receiveFrame_writesOnly f (s.setInbound []))

end

/-! ### The packets the transmit side builds are well-formed (R60, R73, R75) -/

theorem byte_toNat_of_le {n cap : Nat} (hn : n ≤ cap) (hcap : cap ≤ 255) : (BitVec.ofNat 8 n).toNat = n := by
  rw [BitVec.toNat_ofNat]
  omega

theorem wf_messageInit {P : Params} (hP : P.Legal) (a : Address) (q : Port) {size : Len} {d : List Byte}
    (hlen : d.length = size.toNat) : (messageInit P a q size d).wf P = true := by
  obtain ⟨⟨-, hcap, -, -⟩, -⟩ := hP
  unfold messageInit
  split
  next hshort =>
    have hn := byte_toNat_of_le hshort hcap
    exact wf_init_iff.2 ⟨hn.trans_le hshort, by rw [hn, List.length_take_of_le hlen.ge]⟩
  next hlong =>
    have hn := byte_toNat_of_le le_rfl hcap
    exact wf_init_iff.2 ⟨hn.le, by rw [hn, List.length_take_of_le (by omega)]⟩

theorem wf_nextPacket {s : State} (hP : s.params.Legal) {bytes : List Byte} (hlen : bytes.length = nextLength s) :
    (nextPacket s bytes).wf s.params = true := by
  obtain ⟨⟨-, -, -, hcap⟩, -⟩ := hP
  have hfits : nextLength s ≤ s.params.dataCapacity := min_le_left _ _
  have hn := byte_toNat_of_le hfits hcap
  exact wf_data_iff.2 ⟨hn.trans_le hfits, hlen.trans hn.symm⟩

/-! ### The transmit side writes only frames of sealed packets -/

/-- The frame is the encoding of a well-formed packet with its checksum computed (R67). -/
def SealedFrame (P : Params) (f : Frame) : Prop := ∃ p : Packet, p.wf P = true ∧ f = encodePacket (sealPacket p)

/-- After the write nothing more is emitted, whatever the link answers (R73, R75, R77). -/
theorem afterWrite_trace (ok : Bool) {g : State → State} {s : State} (hg : (g s).trace = s.trace) :
    (afterWrite ok g s).1.trace = s.trace := by
  cases ok with
  | false => rfl
  | true => exact hg

theorem advance_trace (total offset : Len) (isLast : Bool) (n : Nat) (s : State) :
    (advance total offset isLast n s).trace = s.trace := by
  cases isLast <;> rfl

theorem createSession_trace (size : Len) (d : List Byte) (s : State) : (createSession size d s).trace = s.trace := by
  obtain ⟨-, -, -, -, -, -, -, -, -, -, htrace⟩ := createSession_frame size d s
  exact htrace

theorem sendMessage_writesOnly {s : State} (hP : s.params.Legal) (a : Address) (q : Port) {size : Len} {d : List Byte}
    (hlen : d.length = size.toNat) : WritesOnly (SealedFrame s.params) s (sendMessage a q size d s).1 := by
  rcases sendMessage_cases a q size d s with ⟨-, h⟩ | ⟨-, -, h⟩ | ⟨-, -, h⟩ <;> rw [h]
  · exact writesOnly_of_trace_eq rfl
  · exact writesOnly_of_trace_eq rfl
  · have hframe : SealedFrame s.params (encodePacket (sealPacket (messageInit s.params a q size d))) :=
      ⟨_, wf_messageInit hP a q hlen, rfl⟩
    exact (writesOnly_of_trace_eq (createSession_trace size d s)).trans <| (linkSend_writesOnly hframe _).trans <|
      writesOnly_of_trace_eq (afterWrite_trace _ rfl)

theorem pumpFragment_writesOnly {s t : State} {r : Report} (hP : s.params.Legal) (hp : pumpFragment s = .ok (t, r)) :
    WritesOnly (SealedFrame s.params) s t := by
  rcases pumpFragment_cases s with ⟨-, h⟩ | ⟨-, -, h⟩ | ⟨-, -, h⟩ <;> rw [h] at hp
  · cases hp
    exact writesOnly_of_trace_eq rfl
  · cases hp
  · have hframe (bytes : List Byte) (hlen : bytes.length = nextLength s) :
        SealedFrame s.params (encodePacket (sealPacket (nextPacket s bytes))) := ⟨_, wf_nextPacket hP hlen, rfl⟩
    have ht : (afterWrite _ _ _).1 = t := congrArg Prod.fst (Except.ok.inj hp)
    rw [← ht]
    exact (linkSend_writesOnly (hframe _ (by simp)) s).trans <|
      writesOnly_of_trace_eq (afterWrite_trace _ (advance_trace _ _ _ _ _))

/-! ### Instructions and steps -/

/-- What decodes to `sendMessage` has the payload its size says (R73). -/
theorem length_of_decodeSendOperands {operands : List Byte} {a : Address} {q : Port} {size : Len} {d : List Byte}
    (h : decodeSendOperands operands = .ok (.sendMessage a q size d)) : d.length = size.toNat := by
  unfold decodeSendOperands at h
  split at h
  · split at h
    · cases h
    next hrest =>
      cases h
      exact List.length_take_of_le (Nat.le_of_not_lt hrest)
  · cases h

theorem toInstr_ne_sendMessage (p : Packet) (a : Address) (q : Port) (size : Len) (d : List Byte) :
    p.toInstr ≠ .sendMessage a q size d := by
  cases p with
  | init l => cases l <;> simp [Packet.toInstr]
  | data l => cases l <;> simp [Packet.toInstr]

/-- Only operation code 1 yields `sendMessage`, and its operands decide the payload's length. -/
theorem length_of_decode_sendMessage {P : Params} {w : InstrWord} {a : Address} {q : Port} {size : Len} {d : List Byte}
    (h : decode P w = .ok (.sendMessage a q size d)) : d.length = size.toNat := by
  cases w with
  | command bytes =>
    change decodeCommand P bytes = _ at h
    unfold decodeCommand at h
    split at h
    · cases h
    · split at h
      · exact length_of_decodeSendOperands h
      · cases h
      · cases h
      · unfold decodeHandlerOperand at h
        split at h <;> cases h
      · cases h
      · cases h
  | frame bytes =>
    cases hf : decodeFrame P bytes with
    | error e => simp [decode, hf] at h
    | ok p =>
      rw [decode_frame_of_ok hf] at h
      exact absurd (Except.ok.inj h) (toInstr_ne_sendMessage p a q size d)

theorem exec_writesOnly {i : Instr} {s t : State} (hP : s.params.Legal)
    (hsend : ∀ a q size d, i = .sendMessage a q size d → d.length = size.toNat) (ht : exec i s = .next t) :
    WritesOnly (SealedFrame s.params) s t := by
  induction i using instr_kinds with
  | packet p =>
    rw [exec_packet] at ht; cases ht
    exact (receivePacket_writesOnly p s).trans (writesOnly_of_trace_eq rfl)
  | sendMessage a q size d =>
    rw [exec_sendMessage] at ht; cases ht
    exact (sendMessage_writesOnly hP a q (hsend a q size d rfl)).trans (writesOnly_of_trace_eq rfl)
  | pumpPendingFragment =>
    obtain ⟨u, r, hp, rfl⟩ := exec_pumpPendingFragment_next ht
    exact (pumpFragment_writesOnly hP hp).trans (writesOnly_of_trace_eq rfl)
  | onPacketReceived f =>
    rw [exec_onPacketReceived] at ht; cases ht
    exact (receiveFrame_writesOnly f s).trans (writesOnly_of_trace_eq rfl)
  | setCompletionHandler k =>
    rw [exec_setCompletionHandler] at ht; cases ht
    exact writesOnly_of_trace_eq rfl
  | tick =>
    obtain ⟨u, r, hp, rfl⟩ := exec_tick_next ht
    exact (pumpFragment_writesOnly hP hp).trans <| (pollAndReceive_writesOnly u).trans (writesOnly_of_trace_eq rfl)

theorem step_writesOnly {s t : State} (hP : s.params.Legal) (ht : step s = .next t) :
    WritesOnly (SealedFrame s.params) s t := by
  rcases step_cases s with ⟨-, hs⟩ | ⟨rest, -, hs⟩ | ⟨f, rest, -, hs⟩ | ⟨w, rest, i, -, hd, hs⟩ | ⟨w, rest, e, -, -, hs⟩ <;>
    rw [hs] at ht
  · cases ht; exact writesOnly_of_trace_eq rfl
  · cases ht; exact writesOnly_of_trace_eq rfl
  · cases ht; exact writesOnly_of_trace_eq rfl
  · have hsend (a q size d) (hi : i = .sendMessage a q size d) : d.length = size.toNat :=
      length_of_decode_sendMessage (hi ▸ hd)
    exact (writesOnly_of_trace_eq rfl).trans (exec_writesOnly (s := s.setInputs rest) hP hsend ht)
  · obtain ⟨r, rfl⟩ := rejectWord_next ht
    exact writesOnly_of_trace_eq rfl

/-! ### What a peer makes of a sealed frame (R69, R72) -/

/-- R60 looks at the two capacities only. -/
theorem wf_of_same_capacities {P Q : Params} (hinit : P.initCapacity = Q.initCapacity)
    (hdata : P.dataCapacity = Q.dataCapacity) (p : Packet) : p.wf P = p.wf Q := by
  cases p with
  | init => rw [Packet.wf, Packet.wf, hinit]
  | data => rw [Packet.wf, Packet.wf, hdata]

/-- R61: a sealed frame fits the link it is written on. -/
theorem SealedFrame.length_le {P : Params} {f : Frame} (hf : SealedFrame P f) (hP : P.Legal) : f.length ≤ P.linkMtu := by
  obtain ⟨p, hwf, rfl⟩ := hf
  have hsealed : (sealPacket p).wf P = true := (wf_sealPacket P p).trans hwf
  exact (length_encodePacket hsealed).trans_le (packetLength_le_linkMtu hP hsealed)

/-- Settles O20: the frames a step writes are sealed frames, and the peer reads the sealed packet back. -/
theorem everyFrameWrittenPassesThePeersGate : Obligations.EveryFrameWrittenPassesThePeersGate := by
  intro s t events f P hinv ht htrace hf hinit hdata
  have hsealed : SealedFrame s.params f := (step_writesOnly hinv.legal ht).good_of_mem htrace hf
  refine ⟨hsealed.length_le hinv.legal, ?_⟩
  obtain ⟨p, hwf, rfl⟩ := hsealed
  have hpeer : (sealPacket p).wf P = true :=
    calc (sealPacket p).wf P = p.wf P := wf_sealPacket P p
      _ = p.wf s.params := wf_of_same_capacities hinit hdata p
      _ = true := hwf
  exact ⟨sealPacket p, hpeer, packetValid_sealPacket p, rfl, decodeFrame_encodePacket hpeer⟩

end Sys2Proof.Machine
end

section
/-! What an operation with one write does (spec 41_transmit.md R73, R75, R77; 43_host_and_link.md R96): one description of the
state it leaves, and from it the statements about `sendMessage` and `pumpPendingFragment`. -/

namespace Sys2Proof.Machine

/-! ### One write -/

/-- Outside the transmit half the two states are the same, the link and the outputs included. -/
structure OnlyTransmitDiffers (s t : State) : Prop extends OutsideTransmit s t where
  linkAnswers : t.linkAnswers = s.linkAnswers
  linkWrites : t.linkWrites = s.linkWrites
  trace : t.trace = s.trace
  outcomes : t.outcomes = s.outcomes

/-- One `LinkSend` of the frame, its outcome by the link's answer, and no write outside the transmit half (R29, R96). -/
structure SendsFrame (f : Frame) (s t : State) : Prop where
  receive : SameReceive s t
  handler : SameHandler s t
  host : SameHost s t
  link : OneAnswerUsed s t
  outputs : Outputs s t (sendEvents f) ⟨if linkAnswer s = true then .none else .transmitFailure, false⟩

/-- The state left by an operation that writes `f` in state `u`: `onSuccess` of it, or no session after a failed write, with
the outcome (R73, R75, R77). -/
def stateAfterSend (ok : Bool) (onSuccess : State → State) (f : Frame) (u : State) : State :=
  (if ok = true then onSuccess (linkSend f u) else (linkSend f u).setTx 0 0).report
    (.single ⟨if ok = true then .none else .transmitFailure, false⟩)

section
variable (ok : Bool) (g : State → State) (f : Frame) (u : State)

theorem finish_afterWrite : finish (afterWrite ok g (linkSend f u)) = .next (stateAfterSend ok g f u) := by
  cases ok <;> rfl

theorem stateAfterSend_txTotalLen :
    (stateAfterSend ok g f u).txTotalLen = if ok = true then (g (linkSend f u)).txTotalLen else 0 := by
  cases ok <;> rfl

theorem stateAfterSend_txSentOffset :
    (stateAfterSend ok g f u).txSentOffset = if ok = true then (g (linkSend f u)).txSentOffset else 0 := by
  cases ok <;> rfl

theorem stateAfterSend_pendingBuffer (hg : ∀ v, (g v).pendingBuffer = v.pendingBuffer) :
    (stateAfterSend ok g f u).pendingBuffer = u.pendingBuffer := by
  cases ok with
  | false => rfl
  | true => exact hg (linkSend f u)

end

theorem OnlyTransmitDiffers.refl (s : State) : OnlyTransmitDiffers s s := by repeat constructor

theorem setTx_onlyTransmitDiffers (s : State) (total offset : Len) : OnlyTransmitDiffers s (s.setTx total offset) := by
  repeat constructor

theorem createSession_onlyTransmitDiffers (size : Len) (d : List Byte) (s : State) :
    OnlyTransmitDiffers s (createSession size d s) := by
  obtain ⟨-, -, -, -, -, -, hanswers, hwrites, -, houtcomes, htrace⟩ := createSession_frame size d s
  exact ⟨createSession_outside size d s, hanswers, hwrites, htrace, houtcomes⟩

theorem advance_onlyTransmitDiffers (total offset : Len) (isLast : Bool) (n : Nat) (s : State) :
    OnlyTransmitDiffers s (advance total offset isLast n s) := by
  unfold advance
  split <;> exact setTx_onlyTransmitDiffers s _ _

/-- What an operation does to the transmit half before and after its write is not seen outside, so there the write is all. -/
theorem stateAfterSend_sendsFrame {s u : State} {g : State → State} (f : Frame) (hu : OnlyTransmitDiffers s u)
    (hg : ∀ v, OnlyTransmitDiffers v (g v)) : SendsFrame f s (stateAfterSend (linkAnswer s) g f u) := by
  unfold stateAfterSend
  generalize hv : (if linkAnswer s = true then g (linkSend f u) else (linkSend f u).setTx 0 0) = v
  have hv : OnlyTransmitDiffers (linkSend f u) v := by
    rw [← hv]
    split
    · exact hg _
    · exact setTx_onlyTransmitDiffers _ 0 0
  have hreassembly : v.reassemblyBuffer = s.reassemblyBuffer := hv.reassemblyBuffer.trans hu.reassemblyBuffer
  exact {
    receive := ⟨hv.rxReceivedLen.trans hu.rxReceivedLen, fun x => congrArg (byteAt .reassemblyBuffer · x) hreassembly⟩
    handler := ⟨hv.cbValid.trans hu.cbValid, hv.cbHandler.trans hu.cbHandler⟩
    host := ⟨hv.params.trans hu.params, hv.inputs.trans hu.inputs⟩
    link := ⟨hv.linkAnswers.trans (congrArg List.tail hu.linkAnswers), hv.linkWrites.trans (congrArg (· + 1) hu.linkWrites),
      hv.inbound.trans hu.inbound⟩
    outputs := ⟨hv.trace.trans (congrArg (· ++ sendEvents f) hu.trace),
      congrArg (· ++ _) (hv.outcomes.trans hu.outcomes)⟩ }

/-! ### `sendMessage` (R73) -/

/-- An accepted message. -/
theorem exec_sendMessage_of_accepted {s : State} (a : Address) (q : Port) {size : Len} (d : List Byte)
    (hidle : s.txTotalLen = 0) (hsize : size.toNat ≤ s.params.maxBufferSize) :
    exec (.sendMessage a q size d) s =
      .next (stateAfterSend (linkAnswer s) id (encodePacket (sealPacket (messageInit s.params a q size d)))
        (createSession size d s)) := by
  rcases sendMessage_cases a q size d s with ⟨hactive, -⟩ | ⟨-, hlong, -⟩ | ⟨-, -, h⟩
  · exact absurd hidle hactive
  · exact absurd hsize (Nat.not_le_of_lt hlong)
  · calc exec (.sendMessage a q size d) s = finish (sendMessage a q size d s) := rfl
      _ = _ := by rw [h, finish_afterWrite]

theorem messageInit_of_short {P : Params} {size : Len} {d : List Byte} (hlen : d.length = size.toNat)
    (hshort : size.toNat ≤ P.initCapacity) (a : Address) (q : Port) :
    messageInit P a q size d = .init true 0 a q (BitVec.ofNat 8 size.toNat) d := by
  rw [messageInit, if_pos hshort, List.take_of_length_le hlen.le]

theorem messageInit_of_long {P : Params} {size : Len} (hlong : P.initCapacity < size.toNat) (a : Address) (q : Port)
    (d : List Byte) :
    messageInit P a q size d = .init false 0 a q (BitVec.ofNat 8 P.initCapacity) (d.take P.initCapacity) :=
  if_neg (Nat.not_le_of_lt hlong)

theorem createSession_of_short {s : State} {size : Len} (hshort : size.toNat ≤ s.params.initCapacity) (d : List Byte) :
    createSession size d s = s :=
  if_pos hshort

theorem createSession_of_long {s : State} {size : Len} {d : List Byte} (hlen : d.length = size.toNat)
    (hlong : s.params.initCapacity < size.toNat) :
    createSession size d s = (storePending s (d.drop s.params.initCapacity)).setTx
      (BitVec.ofNat 16 (size.toNat - s.params.initCapacity)) 0 := by
  rw [createSession, if_neg (Nat.not_le_of_lt hlong), messageRest, List.take_of_length_le hlen.le]

/-- Settles O27: with no session to create, the registers are 0 whatever the link answers. -/
theorem sendMessageInOnePacket : Obligations.SendMessageInOnePacket := by
  intro s a q size d hinv hidle hlen hshort
  have hsize : size.toNat ≤ s.params.maxBufferSize := hshort.trans hinv.legal.2.1
  have hexec := exec_sendMessage_of_accepted a q d hidle hsize
  rw [messageInit_of_short hlen hshort, createSession_of_short hshort] at hexec
  obtain ⟨hreceive, hhandler, hhost, hlink, houtputs⟩ :=
    stateAfterSend_sendsFrame (encodePacket (sealPacket (.init true 0 a q (BitVec.ofNat 8 size.toNat) d)))
      (.refl s) OnlyTransmitDiffers.refl (g := id)
  refine ⟨_, hexec, ⟨?_, ?_, pendingByte_congr (stateAfterSend_pendingBuffer _ id _ s fun _ => rfl)⟩,
    hreceive, hhandler, hhost, hlink, houtputs⟩
  · rw [stateAfterSend_txTotalLen]
    simp [hidle]
  · rw [stateAfterSend_txSentOffset]
    simp [hinv.idleOffset hidle]

/-- Settles O28: the session is created before the write, and a failed write clears its registers but not its bytes. -/
theorem sendMessageOpensASession : Obligations.SendMessageOpensASession := by
  intro s a q size d hinv hidle hlen hlong hsize
  have hexec := exec_sendMessage_of_accepted a q d hidle hsize
  have hsends := stateAfterSend_sendsFrame (encodePacket (sealPacket (messageInit s.params a q size d)))
    (createSession_onlyTransmitDiffers size d s) OnlyTransmitDiffers.refl (g := id)
  rw [createSession_of_long hlen hlong, messageInit_of_long hlong] at hexec hsends
  obtain ⟨hreceive, hhandler, hhost, hlink, houtputs⟩ := hsends
  have htotal : (BitVec.ofNat 16 (size.toNat - s.params.initCapacity)).toNat = size.toNat - s.params.initCapacity := by
    rw [BitVec.toNat_ofNat]
    have := size.isLt
    omega
  have hrest : (d.drop s.params.initCapacity).length = size.toNat - s.params.initCapacity := by
    rw [List.length_drop, hlen]
  have hpending := stateAfterSend_pendingBuffer (linkAnswer s) id
  refine ⟨_, hexec, ?total, ?offset, ?active, fun x hx => ?inside, fun x hx => ?outside,
    hreceive, hhandler, hhost, hlink, houtputs⟩
  case total =>
    rw [stateAfterSend_txTotalLen]
    split
    · exact htotal
    · rfl
  case offset =>
    rw [stateAfterSend_txSentOffset]
    split <;> rfl
  case active =>
    rw [txActive, stateAfterSend_txTotalLen]
    cases linkAnswer s with
    | false => rfl
    | true =>
      simp only [if_true, bne_iff_ne, id, linkSend_txTotalLen, setTx_txTotalLen]
      intro hzero
      rw [hzero] at htotal
      simp at htotal
      omega
  case inside =>
    have hx' : x < (d.drop s.params.initCapacity).length := hx.trans_eq hrest.symm
    have hbyte := byteAt_putBytes_inside s.pendingBuffer 0 .pendingBuffer (d.drop s.params.initCapacity) x hx'
    rw [Nat.zero_add] at hbyte
    rw [pendingByte, hpending _ _ fun _ => rfl]
    refine hbyte.trans ?_
    rw [List.getElem_drop, List.getD_eq_getElem]
  case outside =>
    rw [pendingByte, hpending _ _ fun _ => rfl]
    exact byteAt_putBytes_outside s.pendingBuffer 0 x .pendingBuffer _ (Or.inr (by omega))

/-! ### `pumpPendingFragment` (R75) -/

/-- R75: the bytes of the next fragment. -/
def nextBytes (s : State) : List Byte :=
  (List.range (nextLength s)).map fun x => pendingByte s (s.txSentOffset.toNat + x)

/-- R75: the frame of the next fragment. -/
def nextFrame (s : State) : Frame := encodePacket (sealPacket (nextPacket s (nextBytes s)))

/-- The state left by `pumpPendingFragment` with a session. -/
def pumped (s : State) : State :=
  stateAfterSend (linkAnswer s) (advance s.txTotalLen s.txSentOffset (nextIsLast s) (nextLength s)) (nextFrame s) s

theorem exec_pump_of_idle {s : State} (hidle : s.txTotalLen = 0) :
    exec .pumpPendingFragment s = .next (s.report (.single ⟨.none, false⟩)) := by
  rcases pumpFragment_cases s with ⟨-, hp⟩ | ⟨hactive, -⟩ | ⟨hactive, -⟩
  · rw [exec_pumpPendingFragment, hp]
  · exact absurd hidle hactive
  · exact absurd hidle hactive

theorem exec_pump_of_active {s : State} (hinv : s.Inv) (hactive : s.txTotalLen ≠ 0) :
    exec .pumpPendingFragment s = .next (pumped s) := by
  rcases pumpFragment_cases s with ⟨hidle, -⟩ | ⟨-, houtside, -⟩ | ⟨-, -, hp⟩
  · exact absurd hidle hactive
  · exact absurd (nextLength_le s hinv) (Nat.not_le_of_lt houtside)
  · rw [exec_pumpPendingFragment, hp]
    exact finish_afterWrite _ _ _ s

theorem pumped_sendsFrame (s : State) : SendsFrame (nextFrame s) s (pumped s) :=
  stateAfterSend_sendsFrame _ (.refl s) (advance_onlyTransmitDiffers _ _ _ _)

theorem pumped_pendingBuffer (s : State) : (pumped s).pendingBuffer = s.pendingBuffer := by
  refine stateAfterSend_pendingBuffer _ _ _ s fun v => ?_
  unfold advance
  split <;> rfl

theorem one_le_nextLength {s : State} (hinv : s.Inv) (hactive : s.txTotalLen ≠ 0) : 1 ≤ nextLength s := by
  obtain ⟨⟨-, -, hcap, -⟩, -⟩ := hinv.legal
  have hoffset := hinv.offsetBound hactive
  exact Nat.le_min.2 ⟨hcap, by omega⟩

theorem nextIsLast_iff {s : State} : nextIsLast s = true ↔ s.txSentOffset.toNat + nextLength s = s.txTotalLen.toNat :=
  beq_iff_eq

/-- R75: after a successful write of a fragment that is not the last, the session goes on past it. -/
theorem pumped_of_not_last {s : State} (hinv : s.Inv) (hactive : s.txTotalLen ≠ 0) (hanswer : linkAnswer s = true)
    (hlast : nextIsLast s = false) :
    (pumped s).txTotalLen = s.txTotalLen ∧
      (pumped s).txSentOffset.toNat = s.txSentOffset.toNat + nextLength s := by
  obtain ⟨-, hbelow⟩ := nextLength_of_not_last hinv hactive hlast
  rw [pumped, stateAfterSend_txTotalLen, stateAfterSend_txSentOffset, if_pos hanswer, if_pos hanswer, hlast]
  refine ⟨rfl, ?_⟩
  change (BitVec.ofNat 16 (s.txSentOffset.toNat + nextLength s)).toNat = _
  rw [BitVec.toNat_ofNat]
  have := s.txTotalLen.isLt
  omega

/-- R75, R77: the last fragment and a failed write both end the session. -/
theorem pumped_of_end {s : State} (hend : linkAnswer s = true → nextIsLast s = true) :
    (pumped s).txTotalLen = 0 ∧ (pumped s).txSentOffset = 0 := by
  rw [pumped, stateAfterSend_txTotalLen, stateAfterSend_txSentOffset]
  cases hanswer : linkAnswer s with
  | false => exact ⟨rfl, rfl⟩
  | true =>
    rw [hend hanswer]
    exact ⟨rfl, rfl⟩

/-- Settles O30. -/
theorem pumpWithNoSessionDoesNothing : Obligations.PumpWithNoSessionDoesNothing := by
  intro s hidle
  exact ⟨_, exec_pump_of_idle hidle,
    ⟨⟨rfl, rfl, fun _ => rfl⟩, ⟨rfl, fun _ => rfl⟩, ⟨rfl, rfl⟩, ⟨rfl, rfl⟩, rfl, rfl, rfl⟩,
    (List.append_nil _).symm, rfl⟩

/-- Settles O31, with the fragment R75 computes. -/
theorem pumpSendsTheNextFragment : Obligations.PumpSendsTheNextFragment := by
  intro s hinv hactive
  obtain ⟨hreceive, hhandler, hhost, hlink, houtputs⟩ := pumped_sendsFrame s
  refine ⟨pumped s, nextLength s, nextIsLast s, exec_pump_of_active hinv hactive, rfl, one_le_nextLength hinv hactive,
    nextIsLast_iff, ?registers, pendingByte_congr (pumped_pendingBuffer s), hreceive, hhandler, hhost, hlink, houtputs⟩
  case registers =>
    split
    next hgoesOn => exact pumped_of_not_last hinv hactive hgoesOn.1 hgoesOn.2
    next hends => exact pumped_of_end fun hanswer => by simpa [hanswer] using hends

end Sys2Proof.Machine
end

section
/-! How a Transmit Session ends (spec 41_transmit.md R76, R80): every pump takes a whole fragment off what is left, and no
operation without a pump clears the registers. -/

namespace Sys2Proof.Machine

/-! ### Runs and whole fragments -/

theorem execList_cons_of_next {i : Instr} {s t : State} (h : exec i s = .next t) (is : List Instr) :
    execList (i :: is) s = execList is t := by
  rw [execList, h]

/-- R74: `ceil(n / d)` is the least number of fragments of `d` bytes that hold `n` bytes. -/
theorem ceilDiv_le_iff {d : Nat} (hd : 1 ≤ d) (n k : Nat) : ceilDiv n d ≤ k ↔ n ≤ k * d := by
  rw [ceilDiv, ← Nat.lt_succ_iff, Nat.div_lt_iff_lt_mul hd, Nat.succ_mul]
  omega

/-! ### Pumping to the end -/

/-- R75: the bytes of the session that are not sent yet. -/
def bytesLeft (s : State) : Nat := s.txTotalLen.toNat - s.txSentOffset.toNat

theorem idle_of_bytesLeft_eq_zero {s : State} (hinv : s.Inv) (hleft : bytesLeft s = 0) :
    s.txTotalLen = 0 ∧ s.txSentOffset = 0 := by
  have hidle : s.txTotalLen = 0 := by
    by_contra hactive
    exact absurd (hinv.offsetBound hactive) (Nat.not_lt.2 (Nat.sub_eq_zero_iff_le.1 hleft))
  exact ⟨hidle, hinv.idleOffset hidle⟩

/-- R75, R80: a pump takes a whole fragment, or all that is left, off the session, whatever the link answers. -/
theorem exec_pump_bytesLeft {s : State} (hinv : s.Inv) :
    ∃ t, exec .pumpPendingFragment s = .next t ∧ t.params = s.params ∧
      bytesLeft t ≤ bytesLeft s - s.params.dataCapacity := by
  by_cases hactive : s.txTotalLen = 0
  · refine ⟨_, exec_pump_of_idle hactive, rfl, ?_⟩
    simp [bytesLeft, hactive]
  · refine ⟨_, exec_pump_of_active hinv hactive, (pumped_sendsFrame s).host.1, ?_⟩
    by_cases hend : linkAnswer s = true → nextIsLast s = true
    · obtain ⟨htotal, -⟩ := pumped_of_end hend
      simp [bytesLeft, htotal]
    · obtain ⟨hanswer, hlast⟩ := Classical.not_imp.1 hend
      rw [Bool.not_eq_true] at hlast
      obtain ⟨htotal, hoffset⟩ := pumped_of_not_last hinv hactive hanswer hlast
      obtain ⟨hlength, -⟩ := nextLength_of_not_last hinv hactive hlast
      rw [bytesLeft, bytesLeft, htotal, hoffset, hlength, Nat.sub_add_eq]

/-- Enough pumps for what is left end the session. -/
theorem pumps_end_session (n : Nat) (s : State) (hinv : s.Inv) (hleft : bytesLeft s ≤ n * s.params.dataCapacity) :
    ∃ t, execList (List.replicate n .pumpPendingFragment) s = .next t ∧ t.txTotalLen = 0 ∧ t.txSentOffset = 0 := by
  induction n generalizing s with
  | zero => exact ⟨s, rfl, idle_of_bytesLeft_eq_zero hinv (by simpa using hleft)⟩
  | succ n ih =>
    obtain ⟨t, ht, hparams, hfewer⟩ := exec_pump_bytesLeft hinv
    have hleft' : bytesLeft t ≤ n * t.params.dataCapacity := by
      rw [Nat.succ_mul] at hleft
      rw [hparams]
      omega
    rw [List.replicate_succ, execList_cons_of_next ht]
    exact ih t (exec_keeps_inv hinv ht) hleft'

/-- Settles O52, by induction on the number of pumps. -/
theorem pumpingEndsTheSession : Obligations.PumpingEndsTheSession := by
  intro s hinv
  obtain ⟨⟨-, -, hcap, -⟩, -⟩ := hinv.legal
  exact pumps_end_session _ s hinv ((ceilDiv_le_iff hcap _ _).1 le_rfl)

/-! ### What else could end it -/

/-- With a session, `sendMessage` is refused and the receive side has no access (R29, R112). -/
theorem exec_keeps_session {i : Instr} {s t : State} (hactive : s.txTotalLen ≠ 0) (hpump : i ≠ .pumpPendingFragment)
    (htick : i ≠ .tick) (ht : exec i s = .next t) : t.txTotalLen = s.txTotalLen := by
  induction i using instr_kinds with
  | packet p =>
    rw [exec_packet] at ht; cases ht
    exact (receivePacket_same p s).1.1
  | sendMessage a q size d =>
    rw [exec_sendMessage] at ht; cases ht
    rcases sendMessage_effect a q size d s with h | ⟨hidle, -⟩
    · exact (congrArg State.txTotalLen h :)
    · exact absurd hidle hactive
  | pumpPendingFragment => exact absurd rfl hpump
  | onPacketReceived f =>
    rw [exec_onPacketReceived] at ht; cases ht
    exact (receiveFrame_same f s).1.1
  | setCompletionHandler k => rw [exec_setCompletionHandler] at ht; cases ht; rfl
  | tick => exact absurd rfl htick

/-- Settles O53, by the cases of a step. -/
theorem onlyPumpTickAndResetEndASession : Obligations.OnlyPumpTickAndResetEndASession := by
  intro s t hactive ht hended
  have hchanged : t.txTotalLen ≠ s.txTotalLen := fun hsame => hactive (hsame.symm.trans hended)
  rcases step_cases s with ⟨-, hs⟩ | ⟨rest, hinputs, -⟩ | ⟨f, rest, -, hs⟩ | ⟨w, rest, i, hinputs, hdecode, hs⟩ |
    ⟨w, rest, e, -, -, hs⟩
  · rw [hs] at ht; cases ht
    exact absurd rfl hchanged
  · exact ⟨rest, Or.inl hinputs⟩
  · rw [hs] at ht; cases ht
    exact absurd rfl hchanged
  · refine ⟨rest, Or.inr ⟨w, hinputs, ?_⟩⟩
    by_cases hpump : i = .pumpPendingFragment
    · exact Or.inl (hpump ▸ hdecode)
    by_cases htick : i = .tick
    · exact Or.inr (htick ▸ hdecode)
    rw [hs] at ht
    exact absurd (exec_keeps_session (s := s.setInputs rest) hactive hpump htick ht) hchanged
  · rw [hs] at ht
    obtain ⟨r, rfl⟩ := rejectWord_next ht
    exact absurd rfl hchanged

end Sys2Proof.Machine
end

section
/-! The packets of a message (spec 41_transmit.md R74): how many they are, what they carry, and which is marked last. -/

namespace Sys2Proof.Machine

/-! ### Chunks -/

/-- Consecutive chunks of `c` elements, joined, are the elements they are cut from. -/
theorem flatten_chunks {α : Type} (l : List α) (c n : Nat) :
    ((List.range n).map fun k => (l.drop (k * c)).take c).flatten = l.take (n * c) := by
  induction n with
  | zero => simp
  | succ n ih =>
    rw [List.range_succ, List.map_append, List.flatten_append, ih, Nat.succ_mul, List.take_add]
    simp

section
variable {P : Params} {d : List Byte}

theorem length_messageChunk (P : Params) (d : List Byte) (k : Nat) :
    (messageChunk P d k).length = min P.dataCapacity (d.length - P.initCapacity - k * P.dataCapacity) := by
  rw [messageChunk, List.length_take, List.length_drop, List.length_drop]

/-- R74: the DATA packets carry what the INIT packet does not. -/
theorem flatten_messageChunks (hP : P.Legal) (d : List Byte) :
    ((List.range (messageFragments P d)).map (messageChunk P d)).flatten = d.drop P.initCapacity := by
  obtain ⟨⟨-, -, hcap, -⟩, -⟩ := hP
  have hall : (d.drop P.initCapacity).length ≤ messageFragments P d * P.dataCapacity := by
    rw [List.length_drop]
    exact (ceilDiv_le_iff hcap _ _).1 le_rfl
  exact (flatten_chunks _ _ _).trans (List.take_of_length_le hall)

/-- R74: fragment `k` exists when bytes are left for it. -/
theorem lt_messageFragments_iff (hP : P.Legal) (d : List Byte) (k : Nat) :
    k < messageFragments P d ↔ k * P.dataCapacity < d.length - P.initCapacity := by
  obtain ⟨⟨-, -, hcap, -⟩, -⟩ := hP
  rw [← Nat.not_le, messageFragments, ceilDiv_le_iff hcap, Nat.not_le]

theorem messageFragments_of_short (hP : P.Legal) (hshort : d.length ≤ P.initCapacity) : messageFragments P d = 0 := by
  have hnone := (lt_messageFragments_iff hP d 0).not
  omega

theorem messageFragments_of_long (hP : P.Legal) (hlong : P.initCapacity < d.length) :
    ∃ m, messageFragments P d = m + 1 := by
  have hsome : 0 < messageFragments P d := (lt_messageFragments_iff hP d 0).2 (by omega)
  exact ⟨messageFragments P d - 1, by omega⟩

/-! ### Packets -/

theorem messagePackets_of_short (hshort : d.length ≤ P.initCapacity) (a : Address) (q : Port) :
    messagePackets P a q d = [.init true 0 a q (BitVec.ofNat 8 d.length) d] :=
  if_pos hshort

theorem messagePackets_of_long (hlong : P.initCapacity < d.length) (a : Address) (q : Port) :
    messagePackets P a q d = .init false 0 a q (BitVec.ofNat 8 P.initCapacity) (d.take P.initCapacity)
      :: (List.range (messageFragments P d)).map (messageData P d) :=
  if_neg (Nat.not_le_of_lt hlong)

theorem wf_messageData (hP : P.Legal) (d : List Byte) (k : Nat) : (messageData P d k).wf P = true := by
  obtain ⟨⟨-, -, -, hcap⟩, -⟩ := hP
  have hfits : (messageChunk P d k).length ≤ P.dataCapacity := (length_messageChunk P d k).trans_le (min_le_left _ _)
  have hbyte := byte_toNat_of_le hfits hcap
  exact wf_data_iff.2 ⟨hbyte.trans_le hfits, hbyte.symm⟩

/-- R60, R74. -/
theorem wf_of_mem_messagePackets (hP : P.Legal) {a : Address} {q : Port} {p : Packet}
    (hp : p ∈ messagePackets P a q d) : p.wf P = true := by
  obtain ⟨⟨-, hcap, -, -⟩, -⟩ := id hP
  rcases le_or_gt d.length P.initCapacity with hshort | hlong
  · rw [messagePackets_of_short hshort, List.mem_singleton] at hp
    have hbyte := byte_toNat_of_le hshort hcap
    exact hp ▸ wf_init_iff.2 ⟨hbyte.trans_le hshort, hbyte.symm⟩
  · rw [messagePackets_of_long hlong, List.mem_cons, List.mem_map] at hp
    rcases hp with rfl | ⟨k, -, rfl⟩
    · have hbyte := byte_toNat_of_le le_rfl hcap
      exact wf_init_iff.2 ⟨hbyte.le, by rw [hbyte, List.length_take_of_le hlong.le]⟩
    · exact wf_messageData hP d k

/-- The payload bytes of a packet. -/
def packetPayload : Packet → List Byte
  | .init _ _ _ _ _ payload => payload
  | .data _ _ _ _ payload => payload

theorem flatten_messagePackets (hP : P.Legal) (a : Address) (q : Port) (d : List Byte) :
    ((messagePackets P a q d).map packetPayload).flatten = d := by
  rcases le_or_gt d.length P.initCapacity with hshort | hlong
  · rw [messagePackets_of_short hshort]
    simp [packetPayload]
  · rw [messagePackets_of_long hlong, List.map_cons, List.map_map, List.flatten_cons]
    calc d.take P.initCapacity ++ ((List.range (messageFragments P d)).map (messageChunk P d)).flatten
        = d.take P.initCapacity ++ d.drop P.initCapacity := by rw [flatten_messageChunks hP]
      _ = d := List.take_append_drop _ _

/-- Of `m + 1` fragments exactly the one with index `m` is marked last. -/
theorem lastFlags_messageData {m : Nat} (hm : messageFragments P d = m + 1) :
    (List.range (m + 1)).map (packetIsLast ∘ messageData P d) = List.replicate m false ++ [true] := by
  have hflag (k : Nat) : (packetIsLast ∘ messageData P d) k = (k + 1 == m + 1) := by rw [← hm]; rfl
  rw [List.range_succ, List.map_append, List.map_singleton, hflag, beq_self_eq_true]
  congr 1
  refine List.eq_replicate_iff.2 ⟨by simp, fun b hb => ?_⟩
  obtain ⟨k, hk, rfl⟩ := List.mem_map.1 hb
  have hbelow : k < m := List.mem_range.1 hk
  rw [hflag, beq_eq_false_iff_ne]
  omega

theorem lastFlags_messagePackets (hP : P.Legal) (a : Address) (q : Port) (d : List Byte) :
    (messagePackets P a q d).map packetIsLast = List.replicate (messageFragments P d) false ++ [true] := by
  rcases le_or_gt d.length P.initCapacity with hshort | hlong
  · rw [messagePackets_of_short hshort, messageFragments_of_short hP hshort]
    rfl
  · obtain ⟨m, hm⟩ := messageFragments_of_long hP hlong
    rw [messagePackets_of_long hlong, hm, List.map_cons, List.map_map, lastFlags_messageData hm]
    rfl

end

/-- Settles O54. -/
theorem messagePacketsCarryThePayload : Obligations.MessagePacketsCarryThePayload := by
  intro P a q d hP _
  exact ⟨fun p hp => wf_of_mem_messagePackets hP hp, flatten_messagePackets hP a q d, lastFlags_messagePackets hP a q d⟩

end Sys2Proof.Machine
end

section
/-! A whole message on the link (spec 41_transmit.md R74, R76): what the machine holds between two pumps is the message's rest
and how far it is sent, so the fragment the next pump reads is the message's own. -/

namespace Sys2Proof.Machine

/-! ### A session in the middle of a message -/

/-- The session holds what the INIT packet of `d` did not carry, and `k` DATA fragments of it are sent. -/
structure MessageSession (d : List Byte) (k : Nat) (s : State) : Prop where
  inv : s.Inv
  long : s.params.initCapacity < d.length
  total : s.txTotalLen.toNat = d.length - s.params.initCapacity
  offset : s.txSentOffset.toNat = k * s.params.dataCapacity
  bytes : ∀ x, x < d.length - s.params.initCapacity → pendingByte s x = d.getD (s.params.initCapacity + x) 0

namespace MessageSession

variable {d : List Byte} {k : Nat} {s : State}

theorem active (h : MessageSession d k s) : s.txTotalLen ≠ 0 := by
  have hlong := h.long
  have htotal := h.total
  intro hzero
  rw [hzero] at htotal
  simp at htotal
  omega

theorem nextIndex_eq (h : MessageSession d k s) : nextIndex s = k := by
  obtain ⟨⟨-, -, hcap, -⟩, -⟩ := h.inv.legal
  rw [nextIndex, h.offset, Nat.mul_div_cancel k hcap]

theorem nextLength_eq (h : MessageSession d k s) : nextLength s = (messageChunk s.params d k).length := by
  rw [nextLength, length_messageChunk, h.total, h.offset]

theorem nextIsLast_eq (h : MessageSession d k s) : nextIsLast s = (k + 1 == messageFragments s.params d) := by
  have hbelow := h.inv.offsetBound h.active
  have hthis := lt_messageFragments_iff h.inv.legal d k
  have hnext := lt_messageFragments_iff h.inv.legal d (k + 1)
  rw [Nat.succ_mul] at hnext
  rw [Bool.eq_iff_iff, nextIsLast_iff, beq_iff_eq, h.nextLength_eq, length_messageChunk]
  rw [h.total, h.offset] at *
  omega

theorem nextBytes_eq (h : MessageSession d k s) : nextBytes s = messageChunk s.params d k := by
  refine List.ext_getElem (by simp [nextBytes, h.nextLength_eq]) fun x _ hx => ?_
  have hinside := hx
  rw [length_messageChunk] at hinside
  have hbyte := h.bytes (k * s.params.dataCapacity + x) (by omega)
  simp only [nextBytes, List.getElem_map, List.getElem_range, h.offset, hbyte]
  rw [List.getD_eq_getElem _ _ (by omega)]
  simp [messageChunk, Nat.add_assoc]

/-- R74 and R75 build the same packet. -/
theorem nextFrame_eq (h : MessageSession d k s) :
    nextFrame s = encodePacket (sealPacket (messageData s.params d k)) := by
  rw [nextFrame, nextPacket, h.nextIsLast_eq, h.nextIndex_eq, h.nextLength_eq, h.nextBytes_eq, messageData]

/-- A successful pump of a fragment that is not the last. -/
theorem pumped_session (h : MessageSession d k s) (hanswer : linkAnswer s = true)
    (hk : k + 1 < messageFragments s.params d) : MessageSession d (k + 1) (pumped s) := by
  have hlast : nextIsLast s = false := by
    rw [h.nextIsLast_eq, beq_eq_false_iff_ne]
    exact hk.ne
  have hparams : (pumped s).params = s.params := (pumped_sendsFrame s).host.1
  obtain ⟨htotal, hoffset⟩ := pumped_of_not_last h.inv h.active hanswer hlast
  obtain ⟨hlength, -⟩ := nextLength_of_not_last h.inv h.active hlast
  exact {
    inv := exec_keeps_inv h.inv (exec_pump_of_active h.inv h.active)
    long := hparams ▸ h.long
    total := by rw [htotal, hparams, h.total]
    offset := by rw [hoffset, hparams, h.offset, hlength, Nat.succ_mul]
    bytes := fun x hx => by
      rw [hparams] at hx ⊢
      rw [pendingByte_congr (pumped_pendingBuffer s), h.bytes x hx] }

end MessageSession

/-! ### Runs that send -/

/-- Between `s` and `t` exactly these frames go on the link, one write each; then no session is left, the link still has
`answers` to give, and the receive half is as it was. -/
structure FramesSent (frames : List Frame) (answers : List Bool) (s t : State) : Prop where
  trace : t.trace = s.trace ++ frames.flatMap sendEvents
  total : t.txTotalLen = 0
  offset : t.txSentOffset = 0
  answers : t.linkAnswers = answers
  receive : SameReceive s t
  handler : SameHandler s t

theorem framesSent_nil {s : State} {answers : List Bool} (htotal : s.txTotalLen = 0) (hoffset : s.txSentOffset = 0)
    (hanswers : s.linkAnswers = answers) : FramesSent [] answers s s :=
  ⟨by simp, htotal, hoffset, hanswers, ⟨rfl, fun _ => rfl⟩, ⟨rfl, rfl⟩⟩

theorem SendsFrame.framesSent_cons {f : Frame} {frames : List Frame} {answers : List Bool} {s t u : State}
    (hst : SendsFrame f s t) (htu : FramesSent frames answers t u) : FramesSent (f :: frames) answers s u where
  trace := by rw [htu.trace, hst.outputs.1, List.flatMap_cons, List.append_assoc]
  total := htu.total
  offset := htu.offset
  answers := htu.answers
  receive := ⟨htu.receive.1.trans hst.receive.1, fun x => (htu.receive.2 x).trans (hst.receive.2 x)⟩
  handler := ⟨htu.handler.1.trans hst.handler.1, htu.handler.2.trans hst.handler.2⟩

theorem linkAnswer_of_cons {s : State} {ok : Bool} {answers : List Bool} (h : s.linkAnswers = ok :: answers) :
    linkAnswer s = ok := by
  rw [linkAnswer, h]

/-- With `n + 1` fragments left, as many successful pumps send them. -/
theorem pumps_send_fragments {d : List Byte} {answers : List Bool} (n k : Nat) (s : State) (h : MessageSession d k s)
    (hleft : k + (n + 1) = messageFragments s.params d)
    (hanswers : s.linkAnswers = List.replicate (n + 1) true ++ answers) :
    ∃ t, execList (List.replicate (n + 1) .pumpPendingFragment) s = .next t ∧
      FramesSent ((List.range' k (n + 1)).map fun j => encodePacket (sealPacket (messageData s.params d j)))
        answers s t := by
  have hexec := exec_pump_of_active h.inv h.active
  have hsends : SendsFrame (encodePacket (sealPacket (messageData s.params d k))) s (pumped s) :=
    h.nextFrame_eq ▸ pumped_sendsFrame s
  have hanswer : linkAnswer s = true := linkAnswer_of_cons hanswers
  have hrest : (pumped s).linkAnswers = List.replicate n true ++ answers := by rw [hsends.link.1, hanswers]; rfl
  have hparams : (pumped s).params = s.params := hsends.host.1
  rw [List.replicate_succ, execList_cons_of_next hexec, List.range'_succ, List.map_cons]
  cases n with
  | zero =>
    have hlast : nextIsLast s = true := by rw [h.nextIsLast_eq, ← hleft, beq_self_eq_true]
    obtain ⟨htotal, hoffset⟩ := pumped_of_end fun _ => hlast
    exact ⟨_, rfl, hsends.framesSent_cons (framesSent_nil htotal hoffset hrest)⟩
  | succ n =>
    have hsession := h.pumped_session hanswer (by omega)
    obtain ⟨t, ht, hsent⟩ := pumps_send_fragments n (k + 1) (pumped s) hsession (by rw [hparams]; omega) hrest
    rw [hparams] at hsent
    exact ⟨t, ht, hsends.framesSent_cons hsent⟩

/-! ### The whole message -/

/-- R73: an accepted message sends its INIT packet, and a message of more than one packet then has its rest as a session. -/
theorem sendMessage_starts_message {s : State} (a : Address) (q : Port) {size : Len} {d : List Byte} (hinv : s.Inv)
    (hidle : s.txTotalLen = 0) (hlen : d.length = size.toNat) (hlong : s.params.initCapacity < size.toNat)
    (hsize : size.toNat ≤ s.params.maxBufferSize) (hanswer : linkAnswer s = true) :
    ∃ t, exec (.sendMessage a q size d) s = .next t ∧ MessageSession d 0 t ∧
      SendsFrame (encodePacket (sealPacket
        (.init false 0 a q (BitVec.ofNat 8 s.params.initCapacity) (d.take s.params.initCapacity)))) s t := by
  obtain ⟨t, ht, htotal, hoffset, -, hbytes, -, hreceive, hhandler, hhost, hlink, houtputs⟩ :=
    sendMessageOpensASession s a q size d hinv hidle hlen hlong hsize
  rw [if_pos hanswer] at htotal
  refine ⟨t, ht, ?_, hreceive, hhandler, hhost, hlink, houtputs⟩
  exact {
    inv := exec_keeps_inv hinv ht
    long := by rw [hhost.1, hlen]; exact hlong
    total := by rw [htotal, hhost.1, hlen]
    offset := by rw [hoffset, Nat.zero_mul]; rfl
    bytes := by rw [hhost.1, hlen]; exact hbytes }

/-- A message of one packet. -/
theorem short_message_sent {s : State} (a : Address) (q : Port) {size : Len} {d : List Byte} {answers : List Bool}
    (hinv : s.Inv) (hidle : s.txTotalLen = 0) (hlen : d.length = size.toNat)
    (hshort : d.length ≤ s.params.initCapacity)
    (hanswers : s.linkAnswers = List.replicate (messageFragments s.params d + 1) true ++ answers) :
    ∃ t, execList (messageOperations s.params a q size d) s = .next t ∧
      FramesSent (messageFrames s.params a q d) answers s t := by
  obtain ⟨t, ht, ⟨htotal, hoffset, -⟩, hreceive, hhandler, hhost, hlink, houtputs⟩ :=
    sendMessageInOnePacket s a q size d hinv hidle hlen (hlen ▸ hshort)
  have hsends : SendsFrame _ s t := ⟨hreceive, hhandler, hhost, hlink, houtputs⟩
  rw [messageFragments_of_short hinv.legal hshort] at hanswers
  have hrest : t.linkAnswers = answers := by rw [hlink.1, hanswers]; rfl
  rw [messageOperations, messageFragments_of_short hinv.legal hshort, execList_cons_of_next ht, messageFrames,
    messagePackets_of_short hshort, hlen]
  exact ⟨t, rfl, hsends.framesSent_cons
    (framesSent_nil (htotal.trans hidle) (hoffset.trans (hinv.idleOffset hidle)) hrest)⟩

/-- A message of an INIT packet and its DATA packets. -/
theorem long_message_sent {s : State} (a : Address) (q : Port) {size : Len} {d : List Byte} {answers : List Bool}
    (hinv : s.Inv) (hidle : s.txTotalLen = 0) (hlen : d.length = size.toNat)
    (hlong : s.params.initCapacity < d.length) (hsize : size.toNat ≤ s.params.maxBufferSize)
    (hanswers : s.linkAnswers = List.replicate (messageFragments s.params d + 1) true ++ answers) :
    ∃ t, execList (messageOperations s.params a q size d) s = .next t ∧
      FramesSent (messageFrames s.params a q d) answers s t := by
  obtain ⟨t, ht, hsession, hsends⟩ :=
    sendMessage_starts_message a q hinv hidle hlen (hlen ▸ hlong) hsize (linkAnswer_of_cons hanswers)
  obtain ⟨m, hm⟩ := messageFragments_of_long hinv.legal hlong
  have hparams : t.params = s.params := hsends.host.1
  have hrest : t.linkAnswers = List.replicate (m + 1) true ++ answers := by rw [hsends.link.1, hanswers, hm]; rfl
  obtain ⟨u, hu, hsent⟩ := pumps_send_fragments m 0 t hsession (by rw [hparams, hm, Nat.zero_add]) hrest
  rw [messageOperations, execList_cons_of_next ht, messageFrames, messagePackets_of_long hlong, List.map_cons,
    List.map_map, hm]
  rw [hparams, ← List.range_eq_range'] at hsent
  exact ⟨u, hu, hsends.framesSent_cons hsent⟩

/-- Settles O55. -/
theorem messageFramesGoOnTheLinkInOrder : Obligations.MessageFramesGoOnTheLinkInOrder := by
  intro s a q size d answers hinv hidle hlen hsize hanswers
  have hrun : ∃ t, execList (messageOperations s.params a q size d) s = .next t ∧
      FramesSent (messageFrames s.params a q d) answers s t := by
    rcases le_or_gt d.length s.params.initCapacity with hshort | hlong
    · exact short_message_sent a q hinv hidle hlen hshort hanswers
    · exact long_message_sent a q hinv hidle hlen hlong hsize hanswers
  obtain ⟨t, ht, hsent⟩ := hrun
  exact ⟨t, ht, hsent.trace, hsent.total, hsent.offset, hsent.answers, hsent.receive, hsent.handler⟩

end Sys2Proof.Machine
end

section
/-! What a packet that passes the gate does (spec 42_receive.md R82 to R86): one description of the state it leaves, by the
columns of the transition table, and from it the statements about the packet kinds. -/

namespace Sys2Proof.Machine

/-! ### Counts and stored bytes -/

/-- R7, R90. -/
theorem toNat_satAdd16 (a : Len) (b : Byte) : (satAdd16 a b).toNat = min (a.toNat + b.toNat) 65535 := by
  rw [satAdd16, BitVec.toNat_ofNat]
  omega

theorem toNat_zext16 (b : Byte) : (zext16 b).toNat = b.toNat := by
  have := b.isLt
  rw [zext16, BitVec.toNat_setWidth]
  omega

section
variable {s t : State} {x : Nat} {bs : List Byte}

theorem reassemblyByte_congr (h : t.reassemblyBuffer = s.reassemblyBuffer) (y : Nat) :
    reassemblyByte t y = reassemblyByte s y := by
  rw [reassemblyByte, reassemblyByte, h]

/-- R85: `Done` shows the parameters' whole buffer and nothing else of the state. -/
theorem snapshot_congr (hparams : t.params = s.params) (hbuffer : t.reassemblyBuffer = s.reassemblyBuffer) :
    snapshot t = snapshot s := by
  rw [snapshot, snapshot, hparams]
  exact List.map_congr_left fun y _ => reassemblyByte_congr hbuffer y

theorem reassemblyByte_inside (h : t.reassemblyBuffer = Memory.putBytes s.reassemblyBuffer x bs) {i : Nat}
    (hi : i < bs.length) : reassemblyByte t (x + i) = bs.getD i 0 := by
  rw [reassemblyByte, h, byteAt_putBytes_inside _ _ _ _ _ hi, List.getD_eq_getElem _ _ hi]

theorem reassemblyByte_outside (h : t.reassemblyBuffer = Memory.putBytes s.reassemblyBuffer x bs) {y : Nat}
    (hy : y < x ∨ x + bs.length ≤ y) : reassemblyByte t y = reassemblyByte s y := by
  rw [reassemblyByte, h, byteAt_putBytes_outside _ _ _ _ _ hy, reassemblyByte]

end

/-! ### The `L` test (R83, R84, R85) -/

theorem endPacket_report (isLast : Bool) (c : Cause) (s : State) : (endPacket isLast c s).2 = ⟨c, isLast⟩ := by
  cases isLast <;> rfl

theorem endPacket_rxReceivedLen (isLast : Bool) (c : Cause) (s : State) :
    (endPacket isLast c s).1.rxReceivedLen = if isLast = true then 0 else s.rxReceivedLen := by
  cases isLast <;> rfl

theorem endPacket_trace (isLast : Bool) (c : Cause) (s : State) :
    (endPacket isLast c s).1.trace =
      s.trace ++ if isLast = true then doneEvents s s.rxReceivedLen (snapshot s) else [] := by
  cases isLast with
  | false => exact (List.append_nil _).symm
  | true => exact complete_trace s

/-! ### The transition table (R86) -/

/-- R83, R84: the reassembly buffer after a packet that passed the gate, in the cases of `countAfter`. -/
def bufferAfter (s : State) : Packet → Memory
  | .init _ _ _ _ dataLen payload =>
    if s.rxReceivedLen ≠ 0 then s.reassemblyBuffer
    else Memory.putBytes s.reassemblyBuffer 0 (payload.take dataLen.toNat)
  | .data _ _ fragmentIndex dataLen payload =>
    if fragmentOffset s.params fragmentIndex.toNat + dataLen.toNat ≤ s.params.maxBufferSize then
      Memory.putBytes s.reassemblyBuffer (fragmentOffset s.params fragmentIndex.toNat) (payload.take dataLen.toNat)
    else s.reassemblyBuffer

/-- The state after the store and the count of a packet that passed the gate, before the `L` test. -/
def storedAndCounted (s : State) (p : Packet) : State := (s.setReassembly (bufferAfter s p)).setRx (countAfter s p)

/-- R37: an INIT that would be stored fits the buffer. -/
def LeadChunkFits (s : State) : Packet → Prop
  | .init _ _ _ _ dataLen _ => s.rxReceivedLen = 0 → dataLen.toNat ≤ s.params.maxBufferSize
  | .data _ _ _ _ _ => True

section
variable {p : Packet} {s t : State}

/-- R37, from P2 of R4. -/
theorem leadChunkFits_of_wf (hcap : s.params.initCapacity ≤ s.params.maxBufferSize) (hwf : p.wf s.params = true) :
    LeadChunkFits s p := by
  cases p with
  | init l c a q n d => exact fun _ => (wf_init_iff.1 hwf).1.trans hcap
  | data l c k n d => trivial

theorem leadChunkFits_of_receiving (h : s.rxReceivedLen ≠ 0) (p : Packet) : LeadChunkFits s p := by
  cases p with
  | init l c a q n d => exact fun hidle => absurd hidle h
  | data l c k n d => trivial

/-- R82 to R84: every packet that passes the gate is stored and counted by the table, then completes if it is marked last. -/
theorem receivePacket_of_valid (hvalid : packetValid p = true) (hfits : LeadChunkFits s p) :
    receivePacket p s = endPacket (packetIsLast p) (causeOf s p) (storedAndCounted s p) := by
  cases p with
  | init l c a q n d =>
    rw [receivePacket_init_of_valid hvalid]
    rcases handleInit_cases l n d s with ⟨hrx, h⟩ | ⟨hrx, -, h⟩ | ⟨hrx, hlong, -⟩
    · simp only [h, packetIsLast, causeOf, storedAndCounted, bufferAfter, countAfter, if_pos hrx]
      rfl
    · simp only [h, packetIsLast, causeOf, storedAndCounted, bufferAfter, countAfter, if_neg (not_not.2 hrx)]
      rfl
    · exact absurd (hfits hrx) (Nat.not_le_of_lt hlong)
  | data l c k n d =>
    have hreceive : receivePacket (.data l c k n d) s = handleData l k n d s := if_pos hvalid
    rw [hreceive]
    rcases handleData_cases l k n d s with ⟨hfit, h⟩ | ⟨hfit, h⟩
    · have hfit := of_decide_eq_true hfit
      simp only [h, packetIsLast, causeOf, storedAndCounted, bufferAfter, countAfter, if_pos hfit]
      rfl
    · have hfit := of_decide_eq_false hfit
      simp only [h, packetIsLast, causeOf, storedAndCounted, bufferAfter, countAfter, if_neg hfit]
      rfl

/-- A row of the transition table of R86, with the buffer and the frame of R29. -/
structure Receives (p : Packet) (s t : State) : Prop where
  count : t.rxReceivedLen = if packetIsLast p = true then 0 else countAfter s p
  buffer : t.reassemblyBuffer = bufferAfter s p
  transmit : SameTransmit s t
  handler : SameHandler s t
  host : SameHost s t
  link : SameLink s t
  outputs : Outputs s t (if packetIsLast p = true then doneEvents s (countAfter s p) (snapshot t) else [])
    ⟨causeOf s p, packetIsLast p⟩

theorem exec_of_valid (hvalid : packetValid p = true) (hfits : LeadChunkFits s p) :
    ∃ t, exec p.toInstr s = .next t ∧ Receives p s t := by
  have hreceive := receivePacket_of_valid hvalid hfits
  obtain ⟨htransmit, hhandler, hhost, hlink⟩ := receivePacket_same p s
  obtain ⟨hparams, -, -, -, hbuffer, -⟩ := endPacket_frame (packetIsLast p) (causeOf s p) (storedAndCounted s p)
  obtain ⟨-, -, -, -, -, -, -, -, -, -, houtcomes⟩ := receivePacket_frame p s
  rw [← hreceive] at hparams hbuffer
  refine ⟨_, exec_packet p s, ?count, hbuffer, htransmit, hhandler, hhost, hlink, ?trace, ?outcome⟩
  case count => rw [report_rxReceivedLen, hreceive, endPacket_rxReceivedLen]; rfl
  case trace =>
    have hsnapshot := snapshot_congr (t := (receivePacket p s).1.report (.single (receivePacket p s).2)) hparams hbuffer
    rw [hsnapshot, report_trace, hreceive, endPacket_trace]
    rfl
  case outcome => rw [report_outcomes, houtcomes, hreceive, endPacket_report]

end

/-! ### The rows -/

section
variable {s : State} {n : Byte} {d : List Byte}

/-- R83 in IDLE, for both values of `L`: the lead chunk is stored at address 0 and counted. -/
theorem exec_init_in_idle {l : Bool} {c : Byte} {a : Address} {q : Port}
    (hcap : s.params.initCapacity ≤ s.params.maxBufferSize) (hidle : s.rxReceivedLen = 0)
    (hn : n.toNat ≤ s.params.initCapacity) (hlen : d.length = n.toNat)
    (hvalid : packetValid (.init l c a q n d) = true) :
    ∃ t, exec (Packet.init l c a q n d).toInstr s = .next t ∧ Receives (.init l c a q n d) s t ∧
      countAfter s (.init l c a q n d) = zext16 n ∧ causeOf s (.init l c a q n d) = .none ∧
      (∀ x, x < n.toNat → reassemblyByte t x = d.getD x 0) ∧
      (∀ x, n.toNat ≤ x → reassemblyByte t x = reassemblyByte s x) := by
  obtain ⟨t, ht, hreceives⟩ := exec_of_valid hvalid (leadChunkFits_of_wf hcap (wf_init_iff.2 ⟨hn, hlen⟩))
  have hnotReceiving : ¬s.rxReceivedLen ≠ 0 := not_not.2 hidle
  have hbuffer : t.reassemblyBuffer = Memory.putBytes s.reassemblyBuffer 0 d := by
    rw [hreceives.buffer, bufferAfter, if_neg hnotReceiving, List.take_of_length_le hlen.le]
  refine ⟨t, ht, hreceives, if_neg hnotReceiving, if_neg hnotReceiving, fun x hx => ?_, fun x hx => ?_⟩
  · rw [← reassemblyByte_inside hbuffer (hlen ▸ hx), Nat.zero_add]
  · exact reassemblyByte_outside hbuffer (Or.inr (by omega))

/-- R84 for a fragment that fits, in either state and for both values of `L`: it is stored at its offset and counted. -/
theorem exec_data_of_fits {l : Bool} {c k : Byte} (hlen : d.length = n.toNat)
    (hfits : fragmentOffset s.params k.toNat + n.toNat ≤ s.params.maxBufferSize)
    (hvalid : packetValid (.data l c k n d) = true) :
    ∃ t, exec (Packet.data l c k n d).toInstr s = .next t ∧ Receives (.data l c k n d) s t ∧
      countAfter s (.data l c k n d) = satAdd16 s.rxReceivedLen n ∧ causeOf s (.data l c k n d) = .none ∧
      (∀ x, x < n.toNat → reassemblyByte t (fragmentOffset s.params k.toNat + x) = d.getD x 0) ∧
      (∀ x, x < fragmentOffset s.params k.toNat ∨ fragmentOffset s.params k.toNat + n.toNat ≤ x →
        reassemblyByte t x = reassemblyByte s x) := by
  obtain ⟨t, ht, hreceives⟩ := exec_of_valid (s := s) hvalid trivial
  have hbuffer : t.reassemblyBuffer =
      Memory.putBytes s.reassemblyBuffer (fragmentOffset s.params k.toNat) d := by
    rw [hreceives.buffer, bufferAfter, if_pos hfits, List.take_of_length_le hlen.le]
  refine ⟨t, ht, hreceives, if_pos hfits, if_pos hfits, fun x hx => ?_, fun x hx => ?_⟩
  · exact reassemblyByte_inside hbuffer (hlen ▸ hx)
  · exact reassemblyByte_outside hbuffer (hlen.symm ▸ hx)

end

/-! ### The statements -/

/-- Settles O33. -/
theorem initInIdleStoresTheLeadChunk : Obligations.InitInIdleStoresTheLeadChunk := by
  intro s c a q n d hP hidle hn hlen hvalid
  obtain ⟨t, ht, hreceives, hcount, hcause, hinside, houtside⟩ := exec_init_in_idle hP.2.1 hidle hn hlen hvalid
  have hrx : t.rxReceivedLen = zext16 n := hreceives.count.trans hcount
  have hrxNat : t.rxReceivedLen.toNat = n.toNat := by rw [hrx, toNat_zext16]
  have hstate : rxState t = .receiving ↔ n ≠ 0 := by
    rw [rxState_eq_receiving, Ne, Ne, ← BitVec.toNat_inj, ← BitVec.toNat_inj, hrxNat]
    rfl
  exact ⟨t, ht, hrxNat, hstate, hinside, houtside, hreceives.transmit, hreceives.handler, hreceives.host, hreceives.link,
    hcause ▸ hreceives.outputs⟩

/-- Settles O34. -/
theorem initLastInIdleCompletes : Obligations.InitLastInIdleCompletes := by
  intro s c a q n d hP hidle hn hlen hvalid
  obtain ⟨t, ht, hreceives, hcount, hcause, hinside, houtside⟩ := exec_init_in_idle hP.2.1 hidle hn hlen hvalid
  exact ⟨t, ht, hreceives.count, hinside, houtside, hreceives.transmit, hreceives.handler, hreceives.host, hreceives.link,
    hcount ▸ hcause ▸ hreceives.outputs⟩

/-- Settles O36. -/
theorem dataThatFitsIsStoredAndCounted : Obligations.DataThatFitsIsStoredAndCounted := by
  rintro s c k n d o hlen rfl hfits
  constructor
  · intro hvalid
    obtain ⟨t, ht, hreceives, hcount, hcause, hinside, houtside⟩ := exec_data_of_fits hlen hfits hvalid
    have hrx : t.rxReceivedLen = satAdd16 s.rxReceivedLen n := hreceives.count.trans hcount
    exact ⟨t, ht, by rw [hrx, toNat_satAdd16], hinside, houtside, hreceives.transmit, hreceives.handler, hreceives.host,
      hreceives.link, hcause ▸ hreceives.outputs⟩
  · intro hvalid
    obtain ⟨t, ht, hreceives, hcount, hcause, hinside, houtside⟩ := exec_data_of_fits hlen hfits hvalid
    exact ⟨t, satAdd16 s.rxReceivedLen n, ht, hreceives.count, toNat_satAdd16 _ _, hinside, houtside, hreceives.transmit,
      hreceives.handler, hreceives.host, hreceives.link, hcount ▸ hcause ▸ hreceives.outputs⟩

/-- Settles O40: a frame that decodes runs its packet's instruction, whose row of the table is `Receives`. -/
theorem onPacketReceivedFollowsTheTransitionTable : Obligations.OnPacketReceivedFollowsTheTransitionTable := by
  intro s f p hP hdecode hvalid
  obtain ⟨hwf, -⟩ := decodeFrame_eq_ok_iff.1 hdecode
  obtain ⟨t, ht, hreceives⟩ := exec_of_valid hvalid (leadChunkFits_of_wf hP.2.1 hwf)
  exact ⟨t, (exec_onPacketReceived_of_decodeFrame hdecode).trans ht, ht, hreceives.count, hreceives.transmit,
    hreceives.handler, hreceives.host, hreceives.link, hreceives.outputs⟩

end Sys2Proof.Machine
end

section
/-! Sequences of fragments (spec 42_receive.md R84, R87; 20_memory.md R35, R36) and what ends a reception (R92). -/

namespace Sys2Proof.Machine

/-! ### Two fragments -/

theorem satAdd16_comm (a : Len) (b c : Byte) : satAdd16 (satAdd16 a b) c = satAdd16 (satAdd16 a c) b := by
  apply BitVec.eq_of_toNat_eq
  simp only [toNat_satAdd16]
  omega

/-- Settles O41: the second run stores the same bytes at the same offset. -/
theorem duplicateFragmentsAreCountedAgain : Obligations.DuplicateFragmentsAreCountedAgain := by
  intro s c k n d hlen hfits hvalid
  obtain ⟨t, ht, hfirst, hcount, -, hinside, -⟩ := exec_data_of_fits hlen hfits hvalid
  have hparams : t.params = s.params := hfirst.host.1
  obtain ⟨u, hu, hsecond, hcount', -, hinside', houtside'⟩ :=
    exec_data_of_fits (s := t) hlen (by rw [hparams]; exact hfits) hvalid
  rw [hparams] at hinside' houtside'
  refine ⟨t, u, ht, hu, ?count, fun x => ?bytes, ?trace⟩
  case count =>
    have hrx : t.rxReceivedLen = satAdd16 s.rxReceivedLen n := hfirst.count.trans hcount
    have hrx' : u.rxReceivedLen = satAdd16 t.rxReceivedLen n := hsecond.count.trans hcount'
    rw [hrx', hrx, toNat_satAdd16, toNat_satAdd16]
    omega
  case bytes =>
    by_cases hx : x < fragmentOffset s.params k.toNat ∨ fragmentOffset s.params k.toNat + n.toNat ≤ x
    · exact houtside' x hx
    · obtain ⟨i, rfl⟩ := Nat.exists_eq_add_of_le (Nat.le_of_not_lt fun hbelow => hx (Or.inl hbelow))
      rw [hinside i (by omega), hinside' i (by omega)]
  case trace => exact (hsecond.outputs.1.trans (List.append_nil _)).trans (hfirst.outputs.1.trans (List.append_nil _))

/-- R36, R84: the byte a fragment stores at an address, if it fits and the address is in its region. -/
def fragmentByte (P : Params) (k n : Byte) (d : List Byte) (y : Nat) : Option Byte :=
  if fragmentOffset P k.toNat + n.toNat ≤ P.maxBufferSize ∧
      fragmentOffset P k.toNat ≤ y ∧ y < fragmentOffset P k.toNat + n.toNat then
    some (d.getD (y - fragmentOffset P k.toNat) 0)
  else none

theorem Receives.reassemblyByte_of_data {s t : State} {l : Bool} {c k n : Byte} {d : List Byte}
    (h : Receives (.data l c k n d) s t) (hlen : d.length = n.toNat) (y : Nat) :
    reassemblyByte t y = (fragmentByte s.params k n d y).getD (reassemblyByte s y) := by
  have hbuffer := h.buffer
  rw [bufferAfter] at hbuffer
  rw [fragmentByte]
  split at hbuffer
  next hfits =>
    rw [List.take_of_length_le hlen.le] at hbuffer
    split
    next hstored =>
      obtain ⟨-, hfrom, hto⟩ := hstored
      have hbyte := reassemblyByte_inside hbuffer (i := y - fragmentOffset s.params k.toNat) (by omega)
      rwa [Nat.add_sub_cancel' hfrom] at hbyte
    next hnot => exact reassemblyByte_outside hbuffer (by omega)
  next hnot =>
    rw [if_neg fun hstored => hnot hstored.1]
    exact reassemblyByte_congr hbuffer y

theorem region_of_fragmentByte_ne_none {P : Params} {k n : Byte} {d : List Byte} {y : Nat}
    (h : fragmentByte P k n d y ≠ none) :
    fragmentOffset P k.toNat ≤ y ∧ y < fragmentOffset P k.toNat + n.toNat := by
  rw [fragmentByte] at h
  split at h
  next hstored => exact hstored.2
  · exact absurd rfl h

/-- R36: the regions of two indices do not meet, so no address is stored by both fragments. -/
theorem fragmentByte_eq_none_of_ne {P : Params} {k k' n n' : Byte} (hk : k ≠ k') (hn : n.toNat ≤ P.dataCapacity)
    (hn' : n'.toNat ≤ P.dataCapacity) (d d' : List Byte) (y : Nat) :
    fragmentByte P k n d y = none ∨ fragmentByte P k' n' d' y = none := by
  by_contra hboth
  obtain ⟨hin, hin'⟩ := not_or.1 hboth
  obtain ⟨hfrom, hto⟩ := region_of_fragmentByte_ne_none hin
  obtain ⟨hfrom', hto'⟩ := region_of_fragmentByte_ne_none hin'
  have hne : k.toNat ≠ k'.toNat := fun h => hk (BitVec.eq_of_toNat_eq h)
  obtain ⟨hdisjoint, -⟩ := fragmentRegionsDoNotOverlap
  obtain ⟨-, hapart⟩ := hdisjoint P k.toNat k'.toNat (y - fragmentOffset P k.toNat) (y - fragmentOffset P k'.toNat)
    (by omega) (by omega) hne
  omega

/-- The count and the bytes after two fragments, in the order given. -/
theorem execList_two_fragments {s : State} {c c' k k' n n' : Byte} {d d' : List Byte}
    (hlen : d.length = n.toNat) (hlen' : d'.length = n'.toNat)
    (hvalid : packetValid (.data false c k n d) = true) (hvalid' : packetValid (.data false c' k' n' d') = true) :
    ∃ t, execList [.data c k n d, .data c' k' n' d'] s = .next t ∧
      t.rxReceivedLen = countAfter (s.setRx (countAfter s (.data false c k n d))) (.data false c' k' n' d') ∧
      (∀ y, reassemblyByte t y =
        (fragmentByte s.params k' n' d' y).getD ((fragmentByte s.params k n d y).getD (reassemblyByte s y))) ∧
      t.trace = s.trace := by
  obtain ⟨u, hu, hfirst⟩ := exec_of_valid (s := s) hvalid trivial
  obtain ⟨t, ht, hsecond⟩ := exec_of_valid (s := u) hvalid' trivial
  have hparams : u.params = s.params := hfirst.host.1
  have hrun : execList [.data c k n d, .data c' k' n' d'] s = .next t :=
    (execList_cons_of_next hu _).trans (execList_cons_of_next ht [])
  have hrx : u.rxReceivedLen = countAfter s (.data false c k n d) := hfirst.count
  refine ⟨t, hrun, ?_, fun y => ?_, ?_⟩
  · have hrx' : t.rxReceivedLen = countAfter u (.data false c' k' n' d') := hsecond.count
    rw [hrx', countAfter, hparams, hrx]
    rfl
  · rw [hsecond.reassemblyByte_of_data hlen', hfirst.reassemblyByte_of_data hlen, hparams]
  · exact (hsecond.outputs.1.trans (List.append_nil _)).trans (hfirst.outputs.1.trans (List.append_nil _))

/-- Settles O42: the counts add up in either order, and no address gets a byte from both fragments. -/
theorem fragmentsLandTheSameInEitherOrder : Obligations.FragmentsLandTheSameInEitherOrder := by
  intro s c c' k k' n n' d d' hk hwf hwf' hvalid hvalid'
  obtain ⟨hn, hlen⟩ := wf_data_iff.1 hwf
  obtain ⟨hn', hlen'⟩ := wf_data_iff.1 hwf'
  obtain ⟨t, ht, hcount, hbytes, htrace⟩ := execList_two_fragments (s := s) hlen hlen' hvalid hvalid'
  obtain ⟨u, hu, hcount', hbytes', htrace'⟩ := execList_two_fragments (s := s) hlen' hlen hvalid' hvalid
  refine ⟨t, u, ht, hu, ?count, fun y => ?bytes, htrace.trans htrace'.symm⟩
  case count =>
    rw [hcount, hcount']
    by_cases hfits : fragmentOffset s.params k.toNat + n.toNat ≤ s.params.maxBufferSize <;>
      by_cases hfits' : fragmentOffset s.params k'.toNat + n'.toNat ≤ s.params.maxBufferSize <;>
      simp [countAfter, hfits, hfits', satAdd16_comm s.rxReceivedLen n n']
  case bytes =>
    rw [hbytes, hbytes']
    rcases fragmentByte_eq_none_of_ne hk hn hn' d d' y with hnone | hnone <;> rw [hnone] <;> rfl

/-! ### What ends a reception (R92) -/

section
variable {s t : State}

/-- In RECEIVING no packet makes the count 0 before the `L` test. -/
theorem countAfter_ne_zero (h : s.rxReceivedLen ≠ 0) (p : Packet) : countAfter s p ≠ 0 := by
  have hsum (b : Byte) : satAdd16 s.rxReceivedLen b ≠ 0 := by
    rw [Ne, ← BitVec.toNat_inj] at h ⊢
    rw [toNat_satAdd16]
    simp only [BitVec.ofNat_eq_ofNat, BitVec.toNat_zero] at h ⊢
    omega
  cases p with
  | init l c a q n d => rwa [countAfter, if_pos h]
  | data l c k n d =>
    rw [countAfter]
    split
    · exact hsum n
    · exact h

theorem receivePacket_ends_reception {p : Packet} (hrx : s.rxReceivedLen ≠ 0)
    (hend : (receivePacket p s).1.rxReceivedLen = 0) : packetValid p = true ∧ packetIsLast p = true := by
  cases hvalid : packetValid p with
  | false =>
    have hsame : receivePacket p s = raiseCause .checksumMismatch s := if_neg (by simp [hvalid])
    rw [hsame] at hend
    exact absurd hend hrx
  | true =>
    refine ⟨rfl, ?_⟩
    rw [receivePacket_of_valid hvalid (leadChunkFits_of_receiving hrx p), endPacket_rxReceivedLen] at hend
    by_contra hnotLast
    rw [if_neg hnotLast] at hend
    exact countAfter_ne_zero hrx p hend

theorem receiveFrame_ends_reception {f : Frame} (hrx : s.rxReceivedLen ≠ 0)
    (hend : (receiveFrame f s).1.rxReceivedLen = 0) : Completing s.params f := by
  rcases receiveFrame_cases f s with ⟨e, -, h⟩ | ⟨p, hdecode, h⟩ <;> rw [h] at hend
  · exact absurd hend hrx
  · exact ⟨p, hdecode, receivePacket_ends_reception hrx hend⟩

theorem pollAndReceive_ends_reception (hrx : s.rxReceivedLen ≠ 0)
    (hend : (pollAndReceive s).1.rxReceivedLen = 0) : ∃ f, s.inbound.getLast? = some f ∧ Completing s.params f := by
  rcases pollAndReceive_cases s with ⟨-, h⟩ | ⟨fs, f, hinbound, h⟩ <;> rw [h] at hend
  · exact absurd hend hrx
  · exact ⟨f, by simp [hinbound], receiveFrame_ends_reception (s := s.setInbound []) hrx hend⟩

/-- Of the instructions only the receiving ones write the count, and `tick` receives the link's last frame. -/
theorem exec_ends_reception {i : Instr} (hrx : s.rxReceivedLen ≠ 0) (ht : exec i s = .next t)
    (hend : t.rxReceivedLen = 0) :
    (∃ p : Packet, i = p.toInstr ∧ packetValid p = true ∧ packetIsLast p = true) ∨
      (∃ f, i = .onPacketReceived f ∧ Completing s.params f) ∨
      (i = .tick ∧ ∃ f, s.inbound.getLast? = some f ∧ Completing s.params f) := by
  induction i using instr_kinds with
  | packet p =>
    rw [exec_packet] at ht; cases ht
    exact Or.inl ⟨p, rfl, receivePacket_ends_reception hrx hend⟩
  | sendMessage a q size d =>
    rw [exec_sendMessage] at ht; cases ht
    exact absurd ((sendMessage_outside a q size d s).rxReceivedLen.symm.trans hend) hrx
  | pumpPendingFragment =>
    obtain ⟨u, r, hp, rfl⟩ := exec_pumpPendingFragment_next ht
    exact absurd ((pumpFragment_outside hp).rxReceivedLen.symm.trans hend) hrx
  | onPacketReceived f =>
    rw [exec_onPacketReceived] at ht; cases ht
    exact Or.inr (Or.inl ⟨f, rfl, receiveFrame_ends_reception hrx hend⟩)
  | setCompletionHandler k =>
    rw [exec_setCompletionHandler] at ht; cases ht
    exact absurd hend hrx
  | tick =>
    obtain ⟨u, r, hp, rfl⟩ := exec_tick_next ht
    have ho := pumpFragment_outside hp
    have hpoll := pollAndReceive_ends_reception (s := u) (by rwa [ho.rxReceivedLen]) hend
    rw [ho.inbound, ho.params] at hpoll
    exact Or.inr (Or.inr ⟨rfl, hpoll⟩)

end

/-- Settles O44, by the cases of a step. -/
theorem onlyLastPacketsOrResetLeaveReceiving : Obligations.OnlyLastPacketsOrResetLeaveReceiving := by
  intro s t hrx ht hend
  rcases step_cases s with ⟨-, hs⟩ | ⟨rest, hinputs, -⟩ | ⟨f, rest, -, hs⟩ | ⟨w, rest, i, hinputs, hdecode, hs⟩ |
    ⟨w, rest, e, -, -, hs⟩
  · rw [hs] at ht; cases ht
    exact absurd hend hrx
  · exact Or.inl ⟨rest, hinputs⟩
  · rw [hs] at ht; cases ht
    exact absurd hend hrx
  · rw [hs] at ht
    exact Or.inr ⟨w, rest, i, hinputs, hdecode, exec_ends_reception (s := s.setInputs rest) hrx ht hend⟩
  · rw [hs] at ht
    obtain ⟨r, rfl⟩ := rejectWord_next ht
    exact absurd hend hrx

end Sys2Proof.Machine
end

section
/-! A message end to end (spec 42_receive.md R88): after each frame of a message the receiver holds a longer beginning of the
payload, and the last frame completes it. -/

namespace Sys2Proof.Machine

/-! ### Runs -/

theorem execList_append_of_next {is : List Instr} {s t : State} (h : execList is s = .next t) (js : List Instr) :
    execList (is ++ js) s = execList js t := by
  induction is generalizing s with
  | nil =>
    cases h
    rfl
  | cons i is ih =>
    cases hi : exec i s with
    | next u =>
      rw [execList_cons_of_next hi] at h
      rw [List.cons_append, execList_cons_of_next hi, ih h]
    | fault e => simp [execList, hi] at h
    | refused e => simp [execList, hi] at h

/-! ### A reception in the middle of a message -/

/-- Two parameter sets with the same three constants of the message format (R88). -/
structure SameConstants (P Q : Params) : Prop where
  initCapacity : Q.initCapacity = P.initCapacity
  dataCapacity : Q.dataCapacity = P.dataCapacity
  maxBufferSize : Q.maxBufferSize = P.maxBufferSize

/-- Since `r` the block has received the first `m` bytes of `d`, and completed nothing. -/
structure HoldsPrefix (d : List Byte) (m : Nat) (r u : State) : Prop where
  host : SameHost r u
  handler : SameHandler r u
  trace : u.trace = r.trace
  count : u.rxReceivedLen.toNat = m
  bytes : ∀ x, x < m → reassemblyByte u x = d.getD x 0

/-- In state `u` the packet's payload `bs` is stored and counted as the bytes of `d` from `m` on. -/
structure Continues (d : List Byte) (m : Nat) (bs : List Byte) (u : State) (p : Packet) : Prop where
  wf : p.wf u.params = true
  fits : LeadChunkFits u p
  beginning : bs <+: d.drop m
  count : (countAfter u p).toNat = m + bs.length
  buffer : bufferAfter u p = Memory.putBytes u.reassemblyBuffer m bs

theorem holdsPrefix_zero {r : State} (hidle : r.rxReceivedLen = 0) (d : List Byte) : HoldsPrefix d 0 r r :=
  ⟨⟨rfl, rfl⟩, ⟨rfl, rfl⟩, rfl, congrArg BitVec.toNat hidle, fun x hx => absurd hx (Nat.not_lt_zero x)⟩

section
variable {d bs : List Byte} {m : Nat} {p : Packet} {r u v : State}

/-- R86: the checksum field is not a column of the transition table. -/
theorem Receives.of_sealPacket (h : Receives (sealPacket p) u v) : Receives p u v := by
  cases p <;> exact { h with }

theorem leadChunkFits_sealPacket (u : State) (p : Packet) : LeadChunkFits u (sealPacket p) = LeadChunkFits u p := by
  cases p <;> rfl

/-- R67, R82: a block that can hold a packet runs the packet's row on its sealed frame. -/
theorem exec_sealed_frame (hwf : p.wf u.params = true) (hfits : LeadChunkFits u p) :
    ∃ v, exec (.onPacketReceived (encodePacket (sealPacket p))) u = .next v ∧ Receives p u v := by
  have hdecode := decodeFrame_encodePacket ((wf_sealPacket u.params p).trans hwf)
  rw [← leadChunkFits_sealPacket] at hfits
  obtain ⟨v, hv, hreceives⟩ := exec_of_valid (packetValid_sealPacket p) hfits
  exact ⟨v, (exec_onPacketReceived_of_decodeFrame hdecode).trans hv, hreceives.of_sealPacket⟩

/-- A prefix of what follows position `m` is read off the list it is cut from. -/
theorem getD_of_prefix_drop (h : bs <+: d.drop m) {i : Nat} (hi : i < bs.length) : bs.getD i 0 = d.getD (m + i) 0 := by
  obtain ⟨rest, hrest⟩ := h
  have hlen : m + i < d.length := by
    have := congrArg List.length hrest
    rw [List.length_append, List.length_drop] at this
    omega
  have hbyte : (d.drop m).getD i 0 = bs.getD i 0 := by rw [← hrest, List.getD_append _ _ _ _ hi]
  rw [← hbyte, List.getD_eq_getElem?_getD, List.getElem?_drop, ← List.getD_eq_getElem?_getD]

/-- After a packet that continues the message the buffer holds a longer beginning of it, whether or not it completed. -/
theorem reassemblyByte_of_continues (h : HoldsPrefix d m r u) (hp : Continues d m bs u p) (hv : Receives p u v) {x : Nat}
    (hx : x < m + bs.length) : reassemblyByte v x = d.getD x 0 := by
  have hbuffer := hv.buffer.trans hp.buffer
  rcases Nat.lt_or_ge x m with hbelow | habove
  · rw [reassemblyByte_outside hbuffer (Or.inl hbelow), h.bytes x hbelow]
  · obtain ⟨i, rfl⟩ := Nat.exists_eq_add_of_le habove
    have hi : i < bs.length := by omega
    rw [reassemblyByte_inside hbuffer hi, getD_of_prefix_drop hp.beginning hi]

/-- A frame that is not the last emits nothing. -/
theorem HoldsPrefix.receive (h : HoldsPrefix d m r u) (hp : Continues d m bs u p) (hlast : packetIsLast p = false) :
    ∃ v, exec (.onPacketReceived (encodePacket (sealPacket p))) u = .next v ∧ HoldsPrefix d (m + bs.length) r v := by
  obtain ⟨v, hv, hreceives⟩ := exec_sealed_frame hp.wf hp.fits
  have hcount := hreceives.count
  have htrace := hreceives.outputs.1
  rw [if_neg (by simp [hlast])] at hcount htrace
  exact ⟨v, hv, {
    host := ⟨hreceives.host.1.trans h.host.1, hreceives.host.2.trans h.host.2⟩
    handler := ⟨hreceives.handler.1.trans h.handler.1, hreceives.handler.2.trans h.handler.2⟩
    trace := by rw [htrace, List.append_nil, h.trace]
    count := by rw [hcount, hp.count]
    bytes := fun x hx => reassemblyByte_of_continues h hp hreceives hx }⟩

/-- R100: the snapshot begins with the bytes the buffer holds. -/
theorem take_snapshot (hfits : d.length ≤ v.params.maxBufferSize)
    (hbytes : ∀ x, x < d.length → reassemblyByte v x = d.getD x 0) : (snapshot v).take d.length = d := by
  have hlen : ((snapshot v).take d.length).length = d.length := by simp [snapshot, hfits]
  refine List.ext_getElem hlen fun x _ hx => ?_
  simp only [snapshot, List.getElem_take, List.getElem_map, List.getElem_range, hbytes x hx]
  exact List.getD_eq_getElem _ _ hx

/-- The last frame emits one `Done` with the message's length and bytes. -/
theorem HoldsPrefix.complete (h : HoldsPrefix d m r u) (hp : Continues d m bs u p) (hlast : packetIsLast p = true)
    (hall : m + bs.length = d.length) {size : Len} (hsize : d.length = size.toNat)
    (hfits : d.length ≤ r.params.maxBufferSize) (hregistered : r.cbValid = true) :
    ∃ v snap, exec (.onPacketReceived (encodePacket (sealPacket p))) u = .next v ∧
      v.trace = r.trace ++ [.done r.cbHandler size snap] ∧ snap.length = r.params.maxBufferSize ∧
      snap.take size.toNat = d ∧ rxState v = .idle := by
  obtain ⟨v, hv, hreceives⟩ := exec_sealed_frame hp.wf hp.fits
  have hparams : v.params = r.params := hreceives.host.1.trans h.host.1
  have hcount : countAfter u p = size := BitVec.eq_of_toNat_eq (by rw [hp.count, hall, hsize])
  have hvalid : u.cbValid = true := h.handler.1.trans hregistered
  refine ⟨v, snapshot v, hv, ?trace, by simp [snapshot, hparams], ?bytes, ?idle⟩
  case trace =>
    rw [hreceives.outputs.1, if_pos hlast, hcount, doneEvents, if_pos hvalid, h.handler.2, h.trace]
  case bytes =>
    rw [← hsize]
    exact take_snapshot (by rw [hparams]; exact hfits)
      fun x hx => reassemblyByte_of_continues h hp hreceives (by omega)
  case idle =>
    have hrx : v.rxReceivedLen = 0 := hreceives.count.trans (if_pos hlast)
    exact if_pos hrx

end

/-! ### The packets of a message continue it -/

section
variable {P : Params} {d : List Byte} {r u : State}

/-- R74, R83: the INIT packet of a message carries its first bytes. -/
theorem init_continues {l : Bool} {a : Address} {q : Port} {n : Nat} (hP : P.Legal) (hc : SameConstants P u.params)
    (h : HoldsPrefix d 0 r u) (hn : n ≤ P.initCapacity) (hd : n ≤ d.length) :
    Continues d 0 (d.take n) u (.init l 0 a q (BitVec.ofNat 8 n) (d.take n)) := by
  obtain ⟨⟨-, hcap, -, -⟩, hbuffer, -⟩ := hP
  have hbyte := byte_toNat_of_le hn hcap
  have hlen : (d.take n).length = n := List.length_take_of_le hd
  have hidle : ¬u.rxReceivedLen ≠ 0 := not_not.2 (BitVec.eq_of_toNat_eq h.count)
  have hwf : (Packet.init l 0 a q (BitVec.ofNat 8 n) (d.take n)).wf u.params = true :=
    wf_init_iff.2 ⟨by rw [hbyte, hc.initCapacity]; exact hn, hlen.trans hbyte.symm⟩
  exact {
    wf := hwf
    fits := leadChunkFits_of_wf (by rw [hc.initCapacity, hc.maxBufferSize]; exact hbuffer) hwf
    beginning := List.take_prefix n d
    count := by rw [countAfter, if_neg hidle, toNat_zext16, hbyte, hlen, Nat.zero_add]
    buffer := by rw [bufferAfter, if_neg hidle, hbyte, List.take_of_length_le hlen.le] }

/-- R4 P3, R74: a message has at most 256 DATA fragments. -/
theorem fragment_lt_256 (hP : P.Legal) (hd : d.length ≤ P.maxBufferSize) {k : Nat} (hk : k < messageFragments P d) :
    k < 256 := by
  have hbelow := (lt_messageFragments_iff hP d k).1 hk
  have hpending := pendingSize_le_of_legal hP
  rw [Params.pendingSize] at hpending
  exact Nat.lt_of_mul_lt_mul_right (a := P.dataCapacity) (by omega)

/-- R74, R84: DATA packet `k` of a message carries the bytes from its fragment's offset on. -/
theorem messageData_continues (hP : P.Legal) (hc : SameConstants P u.params) {k : Nat}
    (h : HoldsPrefix d (fragmentOffset P k) r u) (hd : d.length ≤ P.maxBufferSize) (hwidth : d.length < 2 ^ 16)
    (hk : k < messageFragments P d) :
    Continues d (fragmentOffset P k) (messageChunk P d k) u (messageData P d k) := by
  obtain ⟨⟨-, -, -, hcap⟩, -⟩ := id hP
  have hbelow := (lt_messageFragments_iff hP d k).1 hk
  have hlength := length_messageChunk P d k
  have hbyte : (BitVec.ofNat 8 (messageChunk P d k).length).toNat = (messageChunk P d k).length :=
    byte_toNat_of_le (hlength.trans_le (min_le_left _ _)) hcap
  have hindex : (BitVec.ofNat 8 k).toNat = k := byte_toNat_of_le le_rfl (Nat.le_of_lt_succ (fragment_lt_256 hP hd hk))
  have hoffset : fragmentOffset u.params k = fragmentOffset P k := by
    rw [fragmentOffset, fragmentOffset, hc.initCapacity, hc.dataCapacity]
  have hend : fragmentOffset P k + (messageChunk P d k).length ≤ d.length := by
    rw [hlength, fragmentOffset]
    omega
  have hfits : fragmentOffset u.params (BitVec.ofNat 8 k).toNat + (BitVec.ofNat 8 (messageChunk P d k).length).toNat ≤
      u.params.maxBufferSize := by
    rw [hindex, hbyte, hoffset, hc.maxBufferSize]
    exact hend.trans hd
  exact {
    wf := (wf_of_same_capacities hc.initCapacity hc.dataCapacity _).trans (wf_messageData hP d k)
    fits := trivial
    beginning := by
      rw [messageChunk, List.drop_drop]
      exact List.take_prefix _ _
    count := by
      rw [messageData, countAfter, if_pos hfits, toNat_satAdd16, h.count, hbyte]
      omega
    buffer := by rw [messageData, bufferAfter, if_pos hfits, hindex, hbyte, hoffset, List.take_length] }

/-- R36: the fragments start where the lead chunk ends. -/
theorem fragmentOffset_zero (P : Params) : fragmentOffset P 0 = P.initCapacity := by simp [fragmentOffset]

/-- R74: a fragment before the last is full, so the next one starts where it ends. -/
theorem fragmentOffset_succ (hP : P.Legal) {k : Nat} (hk : k + 1 < messageFragments P d) :
    fragmentOffset P k + (messageChunk P d k).length = fragmentOffset P (k + 1) := by
  have hbelow := (lt_messageFragments_iff hP d (k + 1)).1 hk
  rw [Nat.succ_mul] at hbelow
  rw [length_messageChunk, fragmentOffset, fragmentOffset, Nat.succ_mul]
  omega

/-- R74: the last fragment ends where the message ends. -/
theorem fragmentOffset_last (hP : P.Legal) {m : Nat} (hm : messageFragments P d = m + 1) :
    fragmentOffset P m + (messageChunk P d m).length = d.length := by
  have hbelow := (lt_messageFragments_iff hP d m).1 (by omega)
  have hnone := (lt_messageFragments_iff hP d (m + 1)).not.1 (by omega)
  rw [Nat.succ_mul] at hnone
  rw [length_messageChunk, fragmentOffset]
  omega

theorem packetIsLast_messageData (P : Params) (d : List Byte) (k : Nat) :
    packetIsLast (messageData P d k) = (k + 1 == messageFragments P d) := rfl

/-- The first `n` DATA frames of a message with more of them, received in order. -/
theorem receive_fragments (hP : P.Legal) (hc : SameConstants P r.params) (hd : d.length ≤ P.maxBufferSize)
    (hwidth : d.length < 2 ^ 16) (h : HoldsPrefix d (fragmentOffset P 0) r u) (n : Nat)
    (hn : n < messageFragments P d) :
    ∃ v, execList ((List.range n).map fun k => .onPacketReceived (encodePacket (sealPacket (messageData P d k)))) u =
      .next v ∧ HoldsPrefix d (fragmentOffset P n) r v := by
  induction n with
  | zero => exact ⟨u, rfl, h⟩
  | succ n ih =>
    obtain ⟨v, hv, hholds⟩ := ih (by omega)
    have hcontinues := messageData_continues hP (by rw [hholds.host.1]; exact hc) hholds hd hwidth (by omega)
    have hlast : packetIsLast (messageData P d n) = false := by
      rw [packetIsLast_messageData, beq_eq_false_iff_ne]
      exact hn.ne
    obtain ⟨w, hw, hholds'⟩ := hholds.receive hcontinues hlast
    rw [fragmentOffset_succ hP hn] at hholds'
    refine ⟨w, ?_, hholds'⟩
    rw [List.range_succ, List.map_append, execList_append_of_next hv]
    exact execList_cons_of_next hw []

end

/-! ### The whole message -/

/-- Given in order to `r`, the frames before `last` emit nothing, and `last` one `Done` with the message (R88). -/
def DeliversMessage (d : List Byte) (size : Len) (frames : List Frame) (last : Frame) (r : State) : Prop :=
  ∃ u v snap, execList (frames.map .onPacketReceived) r = .next u ∧ u.trace = r.trace ∧
    exec (.onPacketReceived last) u = .next v ∧ v.trace = r.trace ++ [.done r.cbHandler size snap] ∧
    snap.length = r.params.maxBufferSize ∧ snap.take size.toNat = d ∧ rxState v = .idle

section
variable {P : Params} {d : List Byte} {r : State} {size : Len}

/-- A message of one packet is its own last frame. -/
theorem short_message_delivered (hP : P.Legal) (hc : SameConstants P r.params) (hsize : d.length = size.toNat)
    (hidle : r.rxReceivedLen = 0) (hregistered : r.cbValid = true) (hshort : d.length ≤ P.initCapacity) (a : Address)
    (q : Port) : ∃ frames last, messageFrames P a q d = frames ++ [last] ∧ DeliversMessage d size frames last r := by
  have hholds := holdsPrefix_zero hidle d
  have hcontinues := init_continues (l := true) (a := a) (q := q) hP hc hholds hshort le_rfl
  have hfits : d.length ≤ r.params.maxBufferSize := by
    rw [hc.maxBufferSize]
    exact hshort.trans hP.2.1
  obtain ⟨v, snap, hlast⟩ := hholds.complete hcontinues rfl (by simp) hsize hfits hregistered
  refine ⟨[], _, ?_, r, v, snap, rfl, rfl, hlast⟩
  rw [messageFrames, messagePackets_of_short hshort, List.take_length]
  rfl

/-- A message of an INIT packet and its DATA packets. -/
theorem long_message_delivered (hP : P.Legal) (hc : SameConstants P r.params) (hsize : d.length = size.toNat)
    (hidle : r.rxReceivedLen = 0) (hregistered : r.cbValid = true) (hlong : P.initCapacity < d.length)
    (hd : d.length ≤ P.maxBufferSize) (a : Address) (q : Port) :
    ∃ frames last, messageFrames P a q d = frames ++ [last] ∧ DeliversMessage d size frames last r := by
  have hwidth : d.length < 2 ^ 16 := hsize.trans_lt size.isLt
  obtain ⟨m, hm⟩ := messageFragments_of_long hP hlong
  have hholds := holdsPrefix_zero hidle d
  have hinit := init_continues (l := false) (a := a) (q := q) hP hc hholds le_rfl hlong.le
  obtain ⟨u, hu, hlead⟩ := hholds.receive hinit rfl
  have hlead : HoldsPrefix d (fragmentOffset P 0) r u := by
    rwa [List.length_take_of_le hlong.le, Nat.zero_add, ← fragmentOffset_zero] at hlead
  obtain ⟨v, hv, hmost⟩ := receive_fragments hP hc hd hwidth hlead m (by omega)
  have hcontinues := messageData_continues hP (by rw [hmost.host.1]; exact hc) hmost hd hwidth (by omega)
  have hlastFlag : packetIsLast (messageData P d m) = true := by rw [packetIsLast_messageData, hm, beq_self_eq_true]
  obtain ⟨w, snap, hlast⟩ :=
    hmost.complete hcontinues hlastFlag (fragmentOffset_last hP hm) hsize (by rw [hc.maxBufferSize]; exact hd) hregistered
  refine ⟨encodePacket (sealPacket (.init false 0 a q (BitVec.ofNat 8 P.initCapacity) (d.take P.initCapacity))) ::
    (List.range m).map fun k => encodePacket (sealPacket (messageData P d k)), _, ?_, v, w, snap, ?_, hmost.trace, hlast⟩
  · rw [messageFrames, messagePackets_of_long hlong, hm, List.range_succ]
    simp
  · rw [List.map_cons, execList_cons_of_next hu, List.map_map]
    exact hv

end

/-- Settles O56: the sender's frames are those of the message, and the receiver holds a longer beginning of the payload after
each. -/
theorem messageRoundTrip : Obligations.MessageRoundTrip := by
  intro s r a q size d answers hinv htx hlen hsize hanswers hinit hdata hbuffer hidle hregistered
  have hc : SameConstants s.params r.params := ⟨hinit, hdata, hbuffer⟩
  obtain ⟨t, ht, htrace, -⟩ := messageFramesGoOnTheLinkInOrder s a q size d answers hinv htx hlen hsize hanswers
  have hdelivered : ∃ frames last, messageFrames s.params a q d = frames ++ [last] ∧
      DeliversMessage d size frames last r := by
    rcases le_or_gt d.length s.params.initCapacity with hshort | hlong
    · exact short_message_delivered hinv.legal hc hlen hidle hregistered hshort a q
    · exact long_message_delivered hinv.legal hc hlen hidle hregistered hlong (hlen.trans_le hsize) a q
  obtain ⟨frames, last, hframes, u, v, snap, hu, hquiet, hv, hdone, hbytes⟩ := hdelivered
  exact ⟨t, frames, last, u, v, snap, ht, hframes ▸ htrace, hu, hquiet, hv, hdone, hbytes⟩

end Sys2Proof.Machine
end

section
/-! `setCompletionHandler` and `tick` (spec 43_host_and_link.md R97 to R99; 60_exceptions.md R105): `tick` as its pump followed
by its poll, and what the poll makes of the frames the link holds. -/

namespace Sys2Proof.Machine

variable {s u : State} {r : Report}

/-! ### The halves of `tick` -/

theorem exec_tick_of_ok (h : pumpFragment s = .ok (u, r)) :
    exec .tick s = .next ((pollAndReceive u).1.report (.tick r (pollAndReceive u).2)) := by
  change execTick s = _
  rw [execTick, pumpIfActive_eq, h]

theorem exec_tick_of_error {e : Fault} (h : pumpFragment s = .error e) : exec .tick s = .fault e := by
  change execTick s = _
  rw [execTick, pumpIfActive_eq, h]

theorem exec_pump_of_ok (h : pumpFragment s = .ok (u, r)) :
    exec .pumpPendingFragment s = .next (u.report (.single r)) := by
  rw [exec_pumpPendingFragment, h]

theorem pumpFragment_of_idle (hidle : s.txTotalLen = 0) : pumpFragment s = .ok (s, ⟨.none, false⟩) := by
  rcases pumpFragment_cases s with ⟨-, hp⟩ | ⟨hactive, -⟩ | ⟨hactive, -⟩
  · exact hp
  · exact absurd hidle hactive
  · exact absurd hidle hactive

/-! ### Only instructions report (R105) -/

theorem pumpFragment_outcomes (h : pumpFragment s = .ok (u, r)) : u.outcomes = s.outcomes := by
  rcases pumpFragment_effect h with rfl | ⟨-, f, rfl | ⟨-, rfl⟩⟩ <;> rfl

theorem receivePacket_outcomes (p : Packet) (s : State) : (receivePacket p s).1.outcomes = s.outcomes := by
  obtain ⟨-, -, -, -, -, -, -, -, -, -, houtcomes⟩ := receivePacket_frame p s
  exact houtcomes

theorem receiveFrame_outcomes (f : Frame) (s : State) : (receiveFrame f s).1.outcomes = s.outcomes := by
  obtain ⟨-, -, -, -, -, -, -, -, -, -, houtcomes⟩ := receiveFrame_frame f s
  exact houtcomes

/-! ### The poll (R97) -/

theorem setInbound_of_empty (h : s.inbound = []) : s.setInbound [] = s := by
  rw [← h]
  rfl

theorem pollAndReceive_of_empty (h : s.inbound = []) : pollAndReceive s = (s, ⟨.none, false⟩) := by
  rcases pollAndReceive_cases s with ⟨-, hp⟩ | ⟨fs, f, hlast, -⟩
  · rw [hp, setInbound_of_empty h]
  · simp [h] at hlast

/-- R97: the poll sees the last frame, whatever came before it. -/
theorem pollAndReceive_of_last {fs : List Frame} {f : Frame} (h : s.inbound = fs ++ [f]) :
    pollAndReceive s = receiveFrame f (s.setInbound []) := by
  rcases pollAndReceive_cases s with ⟨hempty, -⟩ | ⟨fs', f', hlast, hp⟩
  · simp [h] at hempty
  · obtain ⟨-, hf⟩ := List.append_inj' (h.symm.trans hlast) rfl
    rw [hp, List.singleton_inj.1 hf]

theorem pollAndReceive_inbound (s : State) : (pollAndReceive s).1.inbound = [] := by
  rcases pollAndReceive_cases s with ⟨-, h⟩ | ⟨fs, f, -, h⟩ <;> rw [h]
  · rfl
  · obtain ⟨-, -, -, -, -, -, -, -, -, hinbound, -⟩ := receiveFrame_frame f (s.setInbound [])
    exact hinbound

/-! ### States that differ in what was reported -/

/-- The second state differs at most in its outcomes: `onPacketReceived` after a pump sees the pump's report, the poll half
of `tick` does not. -/
def DiffersInOutcomes (s s' : State) : Prop := ∃ os, s' = { s with outcomes := os }

/-- R85: a completion does not depend on what was reported. -/
theorem complete_with_outcomes (s : State) (os : List OpOutcome) :
    complete { s with outcomes := os } = { complete s with outcomes := os } := by
  simp only [complete]
  split <;> rfl

theorem differsInOutcomes_receiveRelation : ReceiveRelation DiffersInOutcomes where
  params := by rintro s _ ⟨os, rfl⟩; rfl
  rxReceivedLen := by rintro s _ ⟨os, rfl⟩; rfl
  setRx := by rintro s _ len ⟨os, rfl⟩; exact ⟨os, rfl⟩
  storeReassembly := by rintro s _ x bs ⟨os, rfl⟩; exact ⟨os, rfl⟩
  complete := by rintro s _ ⟨os, rfl⟩; exact ⟨os, complete_with_outcomes s os⟩
  report := by rintro s _ o ⟨os, rfl⟩; exact ⟨os ++ [o], rfl⟩

/-! ### States that differ in the frames before the last -/

/-- The link holds the frames `fs` and then `f` in the first state, and `f` alone in the second. -/
def DiffersInEarlierFrames (fs : List Frame) (f : Frame) (s s' : State) : Prop :=
  s.inbound = fs ++ [f] ∧ s' = s.setInbound [f]

/-- R29: no transmit operation has access to the frames the link holds. -/
theorem earlierFrames_transmitRelation (fs : List Frame) (f : Frame) : TransmitRelation (DiffersInEarlierFrames fs f) where
  reads := by rintro s _ ⟨-, rfl⟩; constructor <;> rfl
  setTx := by rintro s _ a b ⟨h, rfl⟩; exact ⟨h, rfl⟩
  storePending := by rintro s _ bs ⟨h, rfl⟩; exact ⟨h, rfl⟩
  linkSend := by rintro s _ g ⟨h, rfl⟩; exact ⟨h, rfl⟩
  report := by rintro s _ o ⟨h, rfl⟩; exact ⟨h, rfl⟩

theorem pollAndReceive_of_earlierFrames {fs : List Frame} {f : Frame} {s' : State} (h : DiffersInEarlierFrames fs f s s') :
    pollAndReceive s' = pollAndReceive s := by
  obtain ⟨hinbound, rfl⟩ := h
  calc pollAndReceive (s.setInbound [f]) = receiveFrame f (s.setInbound []) := pollAndReceive_of_last (fs := []) rfl
    _ = pollAndReceive s := (pollAndReceive_of_last hinbound).symm

theorem exec_tick_of_earlierFrames {fs : List Frame} {f : Frame} {s' : State} (h : DiffersInEarlierFrames fs f s s') :
    exec .tick s = exec .tick s' := by
  have hpumps := (earlierFrames_transmitRelation fs f).pumpFragment h
  generalize hp : pumpFragment s = p, hp' : pumpFragment s' = p' at hpumps
  cases hpumps with
  | error e => rw [exec_tick_of_error hp, exec_tick_of_error hp']
  | ok hresult =>
    obtain ⟨hstate, hreport⟩ := hresult
    rw [exec_tick_of_ok hp, exec_tick_of_ok hp', pollAndReceive_of_earlierFrames hstate, hreport]

/-! ### The statements -/

/-- Settles O47: the pump leaves the link's frames and the outcomes alone, and the poll does what `onPacketReceived` does,
which does not depend on the pump's report. -/
theorem tickIsPumpThenReceive : Obligations.TickIsPumpThenReceive := by
  intro s hinv
  obtain ⟨⟨t, r⟩, hpump⟩ := pumpFragment_ok_of_inv hinv
  have houtcomes := pumpFragment_outcomes hpump
  have hinbound := (pumpFragment_outside hpump).inbound
  have hsingle : (t.report (.single r)).outcomes = s.outcomes ++ [.single r] := by rw [report_outcomes, houtcomes]
  constructor
  · intro hempty
    refine ⟨_, r, exec_pump_of_ok hpump, hsingle, ?_⟩
    rw [exec_tick_of_ok hpump, pollAndReceive_of_empty (hinbound.trans hempty), ← houtcomes]
    rfl
  · intro fs f hlast
    obtain ⟨⟨os, hstate⟩, hreport⟩ := differsInOutcomes_receiveRelation.receiveFrame f
      (s := t.setInbound []) (s' := (t.report (.single r)).setInbound []) ⟨_, rfl⟩
    have hreported (o : OpOutcome) : ((receiveFrame f ((t.report (.single r)).setInbound [])).1.report o).outcomes =
        (t.report (.single r)).outcomes ++ [o] := congrArg (· ++ [o]) (receiveFrame_outcomes f _)
    refine ⟨_, _, r, _, exec_pump_of_ok hpump, hsingle, exec_onPacketReceived f _, hreported _, ?_⟩
    rw [exec_tick_of_ok hpump, pollAndReceive_of_last (hinbound.trans hlast), hreport, hstate, ← houtcomes]
    simp only [State.report, receiveFrame_outcomes, setInbound_outcomes]

/-- Settles O48: the pump has no access to the frames, and the poll looks at the last one and empties the link. -/
theorem onlyTheLastFrameOfABurstCounts : Obligations.OnlyTheLastFrameOfABurstCounts := by
  intro s fs f
  refine ⟨exec_tick_of_earlierFrames (fs := fs) (f := f) ⟨rfl, rfl⟩, fun t ht => ?_⟩
  obtain ⟨u, r, -, rfl⟩ := exec_tick_next ht
  exact pollAndReceive_inbound u

/-- Settles O49: neither half has anything to do. -/
theorem tickWithNothingToDo : Obligations.TickWithNothingToDo := by
  intro s hidle hempty
  have htick : exec .tick s = .next (s.report (.tick ⟨.none, false⟩ ⟨.none, false⟩)) := by
    rw [exec_tick_of_ok (pumpFragment_of_idle hidle), pollAndReceive_of_empty hempty]
  exact ⟨_, htick, ⟨⟨rfl, rfl, fun _ => rfl⟩, ⟨rfl, fun _ => rfl⟩, ⟨rfl, rfl⟩, ⟨rfl, rfl⟩, rfl, rfl, rfl⟩, rfl, rfl⟩

/-- Settles O46: an identifier of HANDLER_W bits is its own low bits, and the first registration leaves the parameters. -/
theorem lastRegisteredHandlerWins : Obligations.LastRegisteredHandlerWins := by
  intro s k k' hk
  have hlow : k % 2 ^ s.params.handlerW = k := Nat.mod_eq_of_lt hk
  have htwice : execList [.setCompletionHandler k', .setCompletionHandler k] s = execList [] _ :=
    (execList_cons_of_next (exec_setCompletionHandler k' s) _).trans
      (execList_cons_of_next (exec_setCompletionHandler k _) [])
  exact ⟨⟨_, exec_setCompletionHandler k s, rfl, hlow, ⟨rfl, rfl, fun _ => rfl⟩, ⟨rfl, fun _ => rfl⟩, ⟨rfl, rfl⟩,
    ⟨rfl, rfl, rfl⟩, (List.append_nil _).symm, rfl⟩, ⟨_, htwice, rfl, hlow⟩, ⟨_, exec_setCompletionHandler k' s, rfl⟩⟩

end Sys2Proof.Machine
end

section
/-! The output events and outcomes of every operation (spec 43_host_and_link.md R93, R100; 60_exceptions.md R105, R116): the
transmit side adds the events of at most one write, then the receive side at most one `Done`. -/

namespace Sys2Proof.Machine

/-! ### The events of the two sides -/

/-- Between `s` and `t` the events `tx` were emitted, those of at most one `LinkSend` (R96). -/
def EmitsAtMostOneSend (s t : State) (tx : List OutEvent) : Prop :=
  t.trace = s.trace ++ tx ∧ (tx = [] ∨ ∃ f, tx = sendEvents f)

/-- Between `s` and `t` the events `rx` were emitted, at most one `Done`, for a handler registered in `s` and with the buffer
of `t` (R85, R100). -/
def EmitsAtMostOneDone (s t : State) (rx : List OutEvent) : Prop :=
  t.trace = s.trace ++ rx ∧ (rx = [] ∨ s.cbValid = true ∧ ∃ len, rx = [.done s.cbHandler len (snapshot t)])

section
variable {s t : State}

theorem emitsAtMostOneSend_of_trace_eq (h : t.trace = s.trace) : EmitsAtMostOneSend s t [] :=
  ⟨h.trans (List.append_nil _).symm, Or.inl rfl⟩

theorem emitsAtMostOneDone_of_trace_eq (h : t.trace = s.trace) : EmitsAtMostOneDone s t [] :=
  ⟨h.trans (List.append_nil _).symm, Or.inl rfl⟩

/-! ### The transmit side (R93) -/

theorem sendMessage_emits (a : Address) (q : Port) (size : Len) (d : List Byte) (s : State) :
    ∃ tx, EmitsAtMostOneSend s (sendMessage a q size d s).1 tx := by
  have htrace (f : Frame) : (linkSend f (createSession size d s)).trace = s.trace ++ sendEvents f := by
    rw [linkSend_trace, createSession_trace, sendEvents]
  rcases sendMessage_effect a q size d s with h | ⟨-, -, f, h | h⟩ <;> rw [h]
  · exact ⟨[], emitsAtMostOneSend_of_trace_eq rfl⟩
  · exact ⟨_, htrace f, Or.inr ⟨f, rfl⟩⟩
  · exact ⟨_, htrace f, Or.inr ⟨f, rfl⟩⟩

theorem pumpFragment_emits {r : Report} (h : pumpFragment s = .ok (t, r)) : ∃ tx, EmitsAtMostOneSend s t tx := by
  rcases pumpFragment_effect h with rfl | ⟨-, f, rfl | ⟨-, rfl⟩⟩
  · exact ⟨[], emitsAtMostOneSend_of_trace_eq rfl⟩
  · exact ⟨_, rfl, Or.inr ⟨f, rfl⟩⟩
  · exact ⟨_, rfl, Or.inr ⟨f, rfl⟩⟩

theorem sendMessage_outcomes (a : Address) (q : Port) (size : Len) (d : List Byte) (s : State) :
    (sendMessage a q size d s).1.outcomes = s.outcomes := by
  have hsession := (createSession_onlyTransmitDiffers size d s).outcomes
  rcases sendMessage_effect a q size d s with h | ⟨-, -, f, h | h⟩ <;> rw [h]
  · exact hsession
  · exact hsession

/-! ### The receive side (R85, R100) -/

/-- The `L` test changes neither the parameters nor the buffer, so `Done` shows the buffer that the operation leaves. -/
theorem endPacket_emits (isLast : Bool) (c : Cause) (s : State) :
    ∃ rx, EmitsAtMostOneDone s (endPacket isLast c s).1 rx := by
  obtain ⟨hparams, -, -, -, hbuffer, -⟩ := endPacket_frame isLast c s
  refine ⟨_, endPacket_trace isLast c s, ?_⟩
  rw [snapshot_congr hparams hbuffer]
  cases isLast with
  | false => exact Or.inl rfl
  | true =>
    cases hvalid : s.cbValid with
    | false => exact Or.inl (by simp [doneEvents, hvalid])
    | true => exact Or.inr ⟨rfl, s.rxReceivedLen, by simp [doneEvents, hvalid]⟩

theorem receivePacket_emits (p : Packet) (s : State) : ∃ rx, EmitsAtMostOneDone s (receivePacket p s).1 rx := by
  obtain ⟨x, bs, len, l, c, h | h | ⟨h, -⟩⟩ := receivePacket_effect p s <;> rw [h]
  · exact ⟨[], emitsAtMostOneDone_of_trace_eq rfl⟩
  · exact endPacket_emits l c s
  · exact endPacket_emits l c ((storeReassembly s x bs).setRx len)

theorem receiveFrame_emits (f : Frame) (s : State) : ∃ rx, EmitsAtMostOneDone s (receiveFrame f s).1 rx := by
  rcases receiveFrame_cases f s with ⟨e, -, h⟩ | ⟨p, -, h⟩ <;> rw [h]
  · exact ⟨[], emitsAtMostOneDone_of_trace_eq rfl⟩
  · exact receivePacket_emits p s

theorem pollAndReceive_emits (s : State) : ∃ rx, EmitsAtMostOneDone s (pollAndReceive s).1 rx := by
  rcases pollAndReceive_cases s with ⟨-, h⟩ | ⟨fs, f, -, h⟩ <;> rw [h]
  · exact ⟨[], emitsAtMostOneDone_of_trace_eq rfl⟩
  · exact receiveFrame_emits f (s.setInbound [])

theorem pollAndReceive_outcomes (s : State) : (pollAndReceive s).1.outcomes = s.outcomes := by
  rcases pollAndReceive_cases s with ⟨-, h⟩ | ⟨fs, f, -, h⟩ <;> rw [h]
  · rfl
  · exact receiveFrame_outcomes f (s.setInbound [])

end

/-! ### The statement -/

theorem toInstr_ne_tick (p : Packet) : p.toInstr ≠ .tick := by
  cases p with
  | init l => cases l <;> simp [Packet.toInstr]
  | data l => cases l <;> simp [Packet.toInstr]

/-- Settles O25, by the kinds of instruction: each is on one side, but for `tick`, whose pump writes nothing that its poll
reads. -/
theorem tracesAndOutcomesOfOperations : Obligations.TracesAndOutcomesOfOperations := by
  intro i s t ht
  induction i using instr_kinds with
  | packet p =>
    rw [exec_packet] at ht; cases ht
    obtain ⟨rx, htrace, hrx⟩ := receivePacket_emits p s
    exact ⟨[], rx, by simp [htrace], Or.inl rfl, hrx.imp_right fun hdone => ⟨Or.inl ⟨p, rfl⟩, hdone⟩,
      by simp [toInstr_ne_tick, receivePacket_outcomes]⟩
  | sendMessage a q size d =>
    rw [exec_sendMessage] at ht; cases ht
    obtain ⟨tx, htrace, htx⟩ := sendMessage_emits a q size d s
    exact ⟨tx, [], by simp [htrace], htx.imp_right fun hsend => ⟨Or.inl ⟨a, q, size, d, rfl⟩, hsend⟩, Or.inl rfl,
      by simp [sendMessage_outcomes]⟩
  | pumpPendingFragment =>
    obtain ⟨u, r, hp, rfl⟩ := exec_pumpPendingFragment_next ht
    obtain ⟨tx, htrace, htx⟩ := pumpFragment_emits hp
    exact ⟨tx, [], by simp [htrace], htx.imp_right fun hsend => ⟨Or.inr (Or.inl rfl), hsend⟩, Or.inl rfl,
      by simp [pumpFragment_outcomes hp]⟩
  | onPacketReceived f =>
    rw [exec_onPacketReceived] at ht; cases ht
    obtain ⟨rx, htrace, hrx⟩ := receiveFrame_emits f s
    exact ⟨[], rx, by simp [htrace], Or.inl rfl, hrx.imp_right fun hdone => ⟨Or.inr (Or.inl ⟨f, rfl⟩), hdone⟩,
      by simp [receiveFrame_outcomes]⟩
  | setCompletionHandler k =>
    rw [exec_setCompletionHandler] at ht; cases ht
    exact ⟨[], [], by simp, Or.inl rfl, Or.inl rfl, by simp⟩
  | tick =>
    obtain ⟨u, r, hp, rfl⟩ := exec_tick_next ht
    obtain ⟨tx, htrace, htx⟩ := pumpFragment_emits hp
    obtain ⟨rx, htrace', hrx⟩ := pollAndReceive_emits u
    obtain ⟨hvalid, hhandler⟩ := (pumpFragment_outside hp).sameHandler
    rw [hvalid, hhandler] at hrx
    exact ⟨tx, rx, by simp [htrace', htrace], htx.imp_right fun hsend => ⟨Or.inr (Or.inr rfl), hsend⟩,
      hrx.imp_right fun hdone => ⟨Or.inr (Or.inr rfl), hdone⟩,
      by simp [pollAndReceive_outcomes, pumpFragment_outcomes hp]⟩

end Sys2Proof.Machine
end

section
/-! The causes and what each leaves (spec 60_exceptions.md R106 to R113): four refuse with no effect, a failed write ends the
message, and a packet that is not stored may still complete the message in progress. -/

namespace Sys2Proof.Machine

/-! ### The codes (R106) -/

/-- R106: the causes in the order of their codes. -/
def causeTable : List Cause :=
  [.none, .checksumMismatch, .bufferOverflow, .concurrentTransferRejected, .transmitFailure, .malformedFrame, .txBusy,
    .txSize, .illegalCommand]

theorem causeTable_causeCode (c : Cause) : causeTable[causeCode c]? = some c := by
  cases c <;> rfl

theorem causeCode_injective {c c' : Cause} (h : causeCode c = causeCode c') : c = c' :=
  Option.some.inj <|
    calc some c = causeTable[causeCode c]? := (causeTable_causeCode c).symm
      _ = causeTable[causeCode c']? := by rw [h]
      _ = some c' := causeTable_causeCode c'

/-- Settles O26: a cause is read back from the table by its code. -/
theorem causeCodesAreTheTable : Obligations.CauseCodesAreTheTable :=
  ⟨rfl, rfl, rfl, rfl, rfl, rfl, rfl, rfl, rfl, fun _ _ => causeCode_injective⟩

/-! ### Operations that only report (R107, R111, R112) -/

theorem sameBlock_report (s : State) (o : OpOutcome) : SameBlock s (s.report o) :=
  ⟨⟨rfl, rfl, fun _ => rfl⟩, ⟨rfl, fun _ => rfl⟩, ⟨rfl, rfl⟩, ⟨rfl, rfl⟩, rfl, rfl, rfl⟩

theorem outputs_report (s : State) (r : Report) : Outputs s (s.report (.single r)) [] r :=
  ⟨(List.append_nil _).symm, rfl⟩

section
variable {s : State} {r : Report}

theorem exec_sendMessage_only_reports {a : Address} {q : Port} {size : Len} {d : List Byte}
    (h : sendMessage a q size d s = (s, r)) :
    ∃ t, exec (.sendMessage a q size d) s = .next t ∧ SameBlock s t ∧ Outputs s t [] r :=
  ⟨_, by rw [exec_sendMessage, h], sameBlock_report s _, outputs_report s r⟩

theorem exec_packet_only_reports {p : Packet} (h : receivePacket p s = (s, r)) :
    ∃ t, exec p.toInstr s = .next t ∧ SameBlock s t ∧ Outputs s t [] r :=
  ⟨_, by rw [exec_packet, h], sameBlock_report s _, outputs_report s r⟩

theorem exec_onPacketReceived_only_reports {f : Frame} (h : receiveFrame f s = (s, r)) :
    ∃ t, exec (.onPacketReceived f) s = .next t ∧ SameBlock s t ∧ Outputs s t [] r :=
  ⟨_, by rw [exec_onPacketReceived, h], sameBlock_report s _, outputs_report s r⟩

end

/-- Settles O29: `sendMessage` tests for a session first and for the size second, and a reserved operation code is rejected
before any operation runs. -/
theorem refusedCommandsHaveNoEffect : Obligations.RefusedCommandsHaveNoEffect := by
  refine ⟨?busy, ?size, ?reserved⟩
  case busy =>
    intro s a q size d hactive
    rcases sendMessage_cases a q size d s with ⟨-, h⟩ | ⟨hidle, -⟩ | ⟨hidle, -⟩
    · exact exec_sendMessage_only_reports h
    · exact absurd hidle hactive
    · exact absurd hidle hactive
  case size =>
    intro s a q size d hidle hlong
    rcases sendMessage_cases a q size d s with ⟨hactive, -⟩ | ⟨-, -, h⟩ | ⟨-, hsize, -⟩
    · exact absurd hidle hactive
    · exact exec_sendMessage_only_reports h
    · exact absurd hsize (Nat.not_le_of_lt hlong)
  case reserved =>
    intro s w rest hinputs hdecode
    have hstep : step s = .next ((s.setInputs rest).report (.single ⟨.illegalCommand, false⟩)) :=
      calc step s = runWord w (s.setInputs rest) := step_of_word hinputs
        _ = rejectWord .reservedOpcode (s.setInputs rest) := runWord_of_decode_error hdecode
        _ = .next ((s.setInputs rest).report (.single ⟨.illegalCommand, false⟩)) := rfl
    exact ⟨_, hstep, sameBlock_report (s.setInputs rest) _, outputs_report (s.setInputs rest) _⟩

theorem receivePacket_of_invalid {p : Packet} (h : packetValid p = false) (s : State) :
    receivePacket p s = (s, ⟨.checksumMismatch, false⟩) := by
  rcases receivePacket_cases p s with ⟨-, hp⟩ | ⟨hvalid, -⟩ | ⟨hvalid, -⟩
  · exact hp
  · simp [h] at hvalid
  · simp [h] at hvalid

/-- Settles O38: the gate comes before the handlers, so before the `L` test, and a frame that decodes runs its packet's
instruction. -/
theorem checksumMismatchChangesNothing : Obligations.ChecksumMismatchChangesNothing := by
  constructor
  · exact fun s p hinvalid => exec_packet_only_reports (receivePacket_of_invalid hinvalid s)
  · intro s f p hdecode hinvalid
    rw [exec_onPacketReceived_of_decodeFrame hdecode]
    exact exec_packet_only_reports (receivePacket_of_invalid hinvalid s)

/-! ### Malformed frames (R54, R111) -/

/-- One check of the decoder: it rejects what fails the check and what the later checks reject. -/
theorem check_rejects_iff {α ε : Type} {c : Prop} [Decidable c] {e : ε} {x : Except ε α} :
    (∃ e', (if c then .error e else x) = .error e') ↔ c ∨ ∃ e', x = .error e' := by
  by_cases h : c <;> simp [h]

/-- R54: the checks M1 to M5 are all the decoder rejects by. -/
theorem malformed_iff_decodeFrame_error (P : Params) (f : Frame) : Malformed P f ↔ ∃ e, decodeFrame P f = .error e := by
  rw [decodeByBytePositions P f, check_rejects_iff, check_rejects_iff, Malformed]
  refine or_congr_right (or_congr_right ?_)
  cases htype : (f.getD 0 0).getLsbD 0 with
  | false =>
    rw [if_pos rfl, check_rejects_iff, check_rejects_iff, check_rejects_iff]
    simp
  | true =>
    rw [if_neg Bool.noConfusion, check_rejects_iff, check_rejects_iff, check_rejects_iff]
    simp

/-- Settles O39. -/
theorem malformedFramesChangeNothing : Obligations.MalformedFramesChangeNothing := by
  refine fun s f => ⟨malformed_iff_decodeFrame_error s.params f, fun hmalformed => ?_⟩
  obtain ⟨e, herror⟩ := (malformed_iff_decodeFrame_error s.params f).1 hmalformed
  rcases receiveFrame_cases f s with ⟨-, -, h⟩ | ⟨p, hok, -⟩
  · exact exec_onPacketReceived_only_reports h
  · simp [herror] at hok

/-! ### A failed write (R77, R110) -/

/-- With no session no number of pumps emits anything. -/
theorem pumps_of_idle (n : Nat) {s : State} (hidle : s.txTotalLen = 0) :
    ∃ u, execList (List.replicate n .pumpPendingFragment) s = .next u ∧ u.trace = s.trace := by
  induction n generalizing s with
  | zero => exact ⟨s, rfl, rfl⟩
  | succ n ih =>
    obtain ⟨u, hu, htrace⟩ := ih (s := s.report (.single ⟨.none, false⟩)) hidle
    exact ⟨u, (execList_cons_of_next (exec_pump_of_idle hidle) _).trans hu, htrace⟩

/-- Both transmit operations end in `stateAfterSend`, after whatever they did to the transmit half. -/
theorem exec_transmit {s : State} {i : Instr} (hinv : s.Inv)
    (hi : (i = .pumpPendingFragment ∧ s.txTotalLen ≠ 0) ∨
      (∃ a q size d, i = .sendMessage a q size d ∧ s.txTotalLen = 0 ∧ size.toNat ≤ s.params.maxBufferSize)) :
    ∃ f u g, exec i s = .next (stateAfterSend (linkAnswer s) g f u) ∧
      SendsFrame f s (stateAfterSend (linkAnswer s) g f u) := by
  rcases hi with ⟨rfl, hactive⟩ | ⟨a, q, size, d, rfl, hidle, hsize⟩
  · exact ⟨_, _, _, exec_pump_of_active hinv hactive, pumped_sendsFrame s⟩
  · exact ⟨_, _, id, exec_sendMessage_of_accepted a q d hidle hsize,
      stateAfterSend_sendsFrame _ (createSession_onlyTransmitDiffers size d s) OnlyTransmitDiffers.refl⟩

/-- Settles O32: the failed write leaves no session, so the pumps after it have nothing to send. -/
theorem transmitFailureEndsTheMessage : Obligations.TransmitFailureEndsTheMessage := by
  intro s i hinv hanswer hi
  obtain ⟨f, u, g, hexec, hreceive, hhandler, -, -, houtputs⟩ := exec_transmit hinv hi
  have htotal : (stateAfterSend (linkAnswer s) g f u).txTotalLen = 0 := by simp [stateAfterSend_txTotalLen, hanswer]
  have hoffset : (stateAfterSend (linkAnswer s) g f u).txSentOffset = 0 := by
    simp [stateAfterSend_txSentOffset, hanswer]
  have hfailure : (if linkAnswer s = true then Cause.none else .transmitFailure) = .transmitFailure := by simp [hanswer]
  rw [hfailure] at houtputs
  exact ⟨_, hexec, htotal, hoffset, hreceive, hhandler, ⟨f, houtputs⟩, fun n => pumps_of_idle n htotal⟩

/-! ### Packets that pass the gate and are not stored (R108, R109) -/

/-- The packet's row of the transition table (R86) neither stores nor counts. -/
def StoresNothing (s : State) (p : Packet) : Prop :=
  countAfter s p = s.rxReceivedLen ∧ bufferAfter s p = s.reassemblyBuffer

section
variable {s t : State} {p : Packet}

/-- R83: during a reception. -/
theorem storesNothing_init (hrx : s.rxReceivedLen ≠ 0) (l : Bool) (c : Byte) (a : Address) (q : Port) (n : Byte)
    (d : List Byte) : StoresNothing s (.init l c a q n d) :=
  ⟨if_pos hrx, if_pos hrx⟩

/-- R84: past the end of the reassembly buffer. -/
theorem storesNothing_data {k n : Byte} (h : ¬fragmentOffset s.params k.toNat + n.toNat ≤ s.params.maxBufferSize)
    (l : Bool) (c : Byte) (d : List Byte) : StoresNothing s (.data l c k n d) :=
  ⟨if_neg h, if_neg h⟩

theorem Receives.sameBlock_of_storesNothing (h : Receives p s t) (hnothing : StoresNothing s p)
    (hlast : packetIsLast p = false) : SameBlock s t ∧ Outputs s t [] ⟨causeOf s p, false⟩ := by
  obtain ⟨hcount, hbuffer⟩ := hnothing
  obtain ⟨hrx, hbytes, htransmit, hhandler, hhost, hlink, houtputs⟩ := h
  rw [hlast] at hrx houtputs
  have hreceive : SameReceive s t := ⟨hrx.trans hcount, reassemblyByte_congr (hbytes.trans hbuffer)⟩
  exact ⟨⟨htransmit, hreceive, hhandler, hhost, hlink⟩, houtputs⟩

/-- R85: the message in progress is delivered as it stood. -/
theorem Receives.completes_of_storesNothing (h : Receives p s t) (hnothing : StoresNothing s p)
    (hlast : packetIsLast p = true) :
    t.rxReceivedLen = 0 ∧ (∀ x, reassemblyByte t x = reassemblyByte s x) ∧
      SameTransmit s t ∧ SameHandler s t ∧ SameHost s t ∧ SameLink s t ∧
      Outputs s t (doneEvents s s.rxReceivedLen (snapshot s)) ⟨causeOf s p, true⟩ := by
  obtain ⟨hcount, hbuffer⟩ := hnothing
  obtain ⟨hrx, hbytes, htransmit, hhandler, hhost, hlink, houtputs⟩ := h
  have hsame : t.reassemblyBuffer = s.reassemblyBuffer := hbytes.trans hbuffer
  rw [hlast, hcount, snapshot_congr hhost.1 hsame] at houtputs
  rw [hlast] at hrx
  exact ⟨hrx, reassemblyByte_congr hsame, htransmit, hhandler, hhost, hlink, houtputs⟩

end

/-- Settles O35. -/
theorem initWhileReceivingIsRejected : Obligations.InitWhileReceivingIsRejected := by
  intro s c a q n d hrx
  have hcause (l : Bool) : causeOf s (.init l c a q n d) = .concurrentTransferRejected := if_pos hrx
  constructor
  · intro hvalid
    obtain ⟨t, ht, hreceives⟩ := exec_of_valid hvalid (leadChunkFits_of_receiving hrx _)
    exact ⟨t, ht, hcause false ▸ hreceives.sameBlock_of_storesNothing (storesNothing_init hrx false c a q n d) rfl⟩
  · intro hvalid
    obtain ⟨t, ht, hreceives⟩ := exec_of_valid hvalid (leadChunkFits_of_receiving hrx _)
    exact ⟨t, ht, hcause true ▸ hreceives.completes_of_storesNothing (storesNothing_init hrx true c a q n d) rfl⟩

/-- Settles O37. -/
theorem dataThatOverflowsStoresNothing : Obligations.DataThatOverflowsStoresNothing := by
  intro s c k n d hover
  have hmisfit : ¬fragmentOffset s.params k.toNat + n.toNat ≤ s.params.maxBufferSize := Nat.not_le_of_lt hover
  have hcause (l : Bool) : causeOf s (.data l c k n d) = .bufferOverflow := if_neg hmisfit
  constructor
  · intro hvalid
    obtain ⟨t, ht, hreceives⟩ := exec_of_valid (s := s) hvalid trivial
    exact ⟨t, ht, hcause false ▸ hreceives.sameBlock_of_storesNothing (storesNothing_data hmisfit false c d) rfl⟩
  · intro hvalid
    obtain ⟨t, ht, hreceives⟩ := exec_of_valid (s := s) hvalid trivial
    exact ⟨t, ht, hcause true ▸ hreceives.completes_of_storesNothing (storesNothing_data hmisfit true c d) rfl⟩

end Sys2Proof.Machine
end

section
/-! Reset (spec 70_reset_and_hazards.md R121), and that what `pendingBuffer` held before its first write is never read
(R122; 20_memory.md R38): a session's bytes are written when it is created and stay, and a pump reads no others. -/

namespace Sys2Proof.Machine

/-! ### Reset (R121) -/

theorem step_of_reset {s : State} {rest : List HostInput} (h : s.inputs = .reset :: rest) :
    step s = .next (assertReset (s.setInputs rest)) := by
  simp [step, h, takeInput]

/-- Settles O13: reset clears the registers the status is derived from, and writes neither memory. -/
theorem resetLeavesTheIdleState : Obligations.ResetLeavesTheIdleState := by
  refine ⟨⟨rfl, rfl, rfl, rfl, rfl, rfl⟩, fun s rest hinputs => ?_⟩
  exact ⟨_, step_of_reset hinputs, rfl, rfl, rfl, rfl, rfl, rfl, fun _ => rfl, fun _ => rfl⟩

/-! ### A session's bytes are written (R122) -/

section
variable {s t : State}

theorem pendingWritten_of_idle (hidle : s.txTotalLen = 0) : PendingWritten s := by
  intro x hx
  simp [hidle] at hx

theorem pendingWritten_congr (htotal : t.txTotalLen = s.txTotalLen) (hbuffer : t.pendingBuffer = s.pendingBuffer) :
    PendingWritten t ↔ PendingWritten s := by
  rw [PendingWritten, PendingWritten, htotal, hbuffer]

/-- R73: a session's total is the number of bytes stored for it, from address 0. -/
theorem createSession_keeps_pendingWritten {size : Len} {d : List Byte} (hlen : d.length = size.toNat)
    (h : PendingWritten s) : PendingWritten (createSession size d s) := by
  by_cases hshort : size.toNat ≤ s.params.initCapacity
  · rwa [createSession_of_short hshort]
  · rw [createSession_of_long hlen (Nat.lt_of_not_le hshort)]
    intro x hx
    have hstored : x < (d.drop s.params.initCapacity).length := by
      rw [setTx_txTotalLen, BitVec.toNat_ofNat] at hx
      rw [List.length_drop, hlen]
      exact hx.trans_le (Nat.mod_le _ _)
    have hcell := cellAt_putBytes_inside s.pendingBuffer 0 _ x hstored
    rw [Nat.zero_add] at hcell
    exact Option.isSome_of_eq_some hcell

theorem sendMessage_keeps_pendingWritten (a : Address) (q : Port) {size : Len} {d : List Byte}
    (hlen : d.length = size.toNat) (h : PendingWritten s) : PendingWritten (sendMessage a q size d s).1 := by
  rcases sendMessage_effect a q size d s with he | ⟨-, -, f, he | he⟩ <;> rw [he]
  · exact h
  · exact createSession_keeps_pendingWritten hlen h
  · exact pendingWritten_of_idle rfl

/-- R75: a pump writes no byte, and goes on with the same total or ends the session. -/
theorem pumpFragment_keeps_pendingWritten {r : Report} (hp : pumpFragment s = .ok (t, r)) (h : PendingWritten s) :
    PendingWritten t := by
  rcases pumpFragment_effect hp with rfl | ⟨-, f, rfl | ⟨-, rfl⟩⟩
  · exact h
  · exact pendingWritten_of_idle rfl
  · exact h

/-- The receive side has no access to the transmit half (R29). -/
theorem receivePacket_keeps_pendingWritten (p : Packet) (h : PendingWritten s) :
    PendingWritten (receivePacket p s).1 := by
  obtain ⟨-, htotal, -, hbuffer, -⟩ := receivePacket_frame p s
  exact (pendingWritten_congr htotal hbuffer).2 h

theorem receiveFrame_keeps_pendingWritten (f : Frame) (h : PendingWritten s) :
    PendingWritten (receiveFrame f s).1 := by
  obtain ⟨-, htotal, -, hbuffer, -⟩ := receiveFrame_frame f s
  exact (pendingWritten_congr htotal hbuffer).2 h

theorem pollAndReceive_keeps_pendingWritten (h : PendingWritten s) : PendingWritten (pollAndReceive s).1 :=
  have houtside := pollAndReceive_outside s
  (pendingWritten_congr houtside.txTotalLen houtside.pendingBuffer).2 h

/-- An instruction keeps the session's bytes written if its payload, where it has one to send, is as long as its size
operand says (R56). -/
theorem exec_keeps_pendingWritten {i : Instr} (hsend : ∀ a q size d, i = .sendMessage a q size d → d.length = size.toNat)
    (h : PendingWritten s) (ht : exec i s = .next t) : PendingWritten t := by
  induction i using instr_kinds with
  | packet p => rw [exec_packet] at ht; cases ht; exact receivePacket_keeps_pendingWritten p h
  | sendMessage a q size d =>
    rw [exec_sendMessage] at ht; cases ht
    exact sendMessage_keeps_pendingWritten a q (hsend a q size d rfl) h
  | pumpPendingFragment =>
    obtain ⟨u, r, hp, rfl⟩ := exec_pumpPendingFragment_next ht
    have hpumped : PendingWritten u := pumpFragment_keeps_pendingWritten hp h
    exact hpumped
  | onPacketReceived f => rw [exec_onPacketReceived] at ht; cases ht; exact receiveFrame_keeps_pendingWritten f h
  | setCompletionHandler k => rw [exec_setCompletionHandler] at ht; cases ht; exact h
  | tick =>
    obtain ⟨u, r, hp, rfl⟩ := exec_tick_next ht
    exact pollAndReceive_keeps_pendingWritten (pumpFragment_keeps_pendingWritten hp h)

end

/-- Settles O17, by the cases of a step: reset ends the session, and a command that decodes carries its whole payload. -/
theorem sessionBytesAreAlwaysWritten : Obligations.SessionBytesAreAlwaysWritten := by
  intro s t _ h ht
  rcases step_cases s with ⟨-, hs⟩ | ⟨rest, -, hs⟩ | ⟨f, rest, -, hs⟩ | ⟨w, rest, i, -, hdecode, hs⟩ |
    ⟨w, rest, e, -, -, hs⟩ <;> rw [hs] at ht
  · cases ht; exact h
  · cases ht; exact pendingWritten_of_idle rfl
  · cases ht; exact h
  · have hsend (a q size d) (hi : i = .sendMessage a q size d) : d.length = size.toNat :=
      length_of_decode_sendMessage (hi ▸ hdecode)
    exact exec_keeps_pendingWritten (s := s.setInputs rest) hsend h ht
  · obtain ⟨r, rfl⟩ := rejectWord_next ht
    exact h

/-! ### A pump reads no other bytes (R122, R38) -/

section
variable {s : State} {m : Memory}

/-- A pump needs of the invariant only that its copy stays inside the pending buffer (R34). -/
theorem exec_pump_of_fits (hactive : s.txTotalLen ≠ 0)
    (hfits : s.txSentOffset.toNat + nextLength s ≤ s.params.pendingSize) :
    exec .pumpPendingFragment s = .next (pumped s) := by
  rcases pumpFragment_cases s with ⟨hidle, -⟩ | ⟨-, houtside, -⟩ | ⟨-, -, hp⟩
  · exact absurd hidle hactive
  · exact absurd hfits (Nat.not_le_of_lt houtside)
  · rw [exec_pumpPendingFragment, hp]
    exact finish_afterWrite _ _ _ s

/-- R75: the next fragment ends at or before the session's total. -/
theorem nextBytes_setPending (hagree : ∀ x, x < s.txTotalLen.toNat → byteAt .pendingBuffer m x = pendingByte s x) :
    nextBytes (s.setPending m) = nextBytes s := by
  refine List.map_congr_left fun i hi => hagree (s.txSentOffset.toNat + i) ?_
  have hlength : i < nextLength s := List.mem_range.1 hi
  rw [nextLength] at hlength
  omega

theorem advance_setPending (total offset : Len) (isLast : Bool) (n : Nat) :
    advance total offset isLast n (s.setPending m) = (advance total offset isLast n s).setPending m := by
  cases isLast <;> rfl

/-- After the read, an operation with one write does not see the pending buffer. -/
theorem stateAfterSend_setPending {g : State → State} (hg : ∀ u : State, g (u.setPending m) = (g u).setPending m)
    (ok : Bool) (f : Frame) : stateAfterSend ok g f (s.setPending m) = (stateAfterSend ok g f s).setPending m := by
  cases ok with
  | false => rfl
  | true => exact congrArg (State.report · (.single ⟨.none, false⟩)) (hg (linkSend f s))

theorem pumped_setPending (hagree : ∀ x, x < s.txTotalLen.toNat → byteAt .pendingBuffer m x = pendingByte s x) :
    pumped (s.setPending m) = (pumped s).setPending m := by
  have hframe : nextFrame (s.setPending m) = nextFrame s := by
    rw [nextFrame, nextFrame, nextBytes_setPending hagree]
    rfl
  rw [pumped, hframe]
  exact stateAfterSend_setPending (fun _ => advance_setPending _ _ _ _) (linkAnswer s) (nextFrame s)

end

/-- Settles O18: with no session a pump reads nothing, and with one it reads the next fragment. -/
theorem pumpDependsOnlyOnSessionBytes : Obligations.PumpDependsOnlyOnSessionBytes := by
  intro s m hinv hagree
  by_cases hidle : s.txTotalLen = 0
  · rw [exec_pump_of_idle hidle, exec_pump_of_idle (s := s.setPending m) hidle]
    rfl
  · have hfits : s.txSentOffset.toNat + nextLength s ≤ s.params.pendingSize := nextLength_le s hinv
    rw [exec_pump_of_fits hidle hfits, exec_pump_of_fits (s := s.setPending m) hidle hfits, pumped_setPending hagree]
    rfl

end Sys2Proof.Machine
end

section
/-! Two hazards of the receiver (spec 70_reset_and_hazards.md R133, R138): a reception whose last fragment was lost rejects
every later lead packet, and a frame of zero bytes is a valid INIT packet that stores and counts nothing. -/

namespace Sys2Proof.Machine

variable {s : State}

/-! ### A stuck reception (R133) -/

/-- R83: during a reception an INIT that is not marked last only reports. -/
theorem receivePacket_init_in_receiving {c : Byte} {a : Address} {q : Port} {n : Byte} {d : List Byte}
    (hrx : s.rxReceivedLen ≠ 0) (hvalid : packetValid (.init false c a q n d) = true) :
    receivePacket (.init false c a q n d) s = (s, ⟨.concurrentTransferRejected, false⟩) := by
  rw [receivePacket_init_of_valid hvalid]
  rcases handleInit_cases false n d s with ⟨-, h⟩ | ⟨hidle, -⟩ | ⟨hidle, -⟩
  · exact h
  · exact absurd hidle hrx
  · exact absurd hidle hrx

theorem exec_init_frame_in_receiving {f : Frame} {c : Byte} {a : Address} {q : Port} {n : Byte} {d : List Byte}
    (hrx : s.rxReceivedLen ≠ 0) (hdecode : decodeFrame s.params f = .ok (.init false c a q n d))
    (hvalid : packetValid (.init false c a q n d) = true) :
    exec (.onPacketReceived f) s = .next (s.report (.single ⟨.concurrentTransferRejected, false⟩)) := by
  rw [exec_onPacketReceived_of_decodeFrame hdecode, exec_packet, receivePacket_init_in_receiving hrx hvalid]

theorem sameBlock_refl (s : State) : SameBlock s s :=
  ⟨⟨rfl, rfl, fun _ => rfl⟩, ⟨rfl, fun _ => rfl⟩, ⟨rfl, rfl⟩, ⟨rfl, rfl⟩, rfl, rfl, rfl⟩

/-- Settles O43, by induction on the frames: each rejection leaves a state that differs from the one before in its outcomes
only, so the next frame is rejected too. -/
theorem stuckReceiverRejectsEveryInit : Obligations.StuckReceiverRejectsEveryInit := by
  intro s fs
  induction fs generalizing s with
  | nil => exact fun _ _ => ⟨s, rfl, sameBlock_refl s, rfl, (List.append_nil _).symm⟩
  | cons f fs ih =>
    intro hrx hframes
    obtain ⟨⟨c, a, q, n, d, hdecode, hvalid⟩, hrest⟩ := List.forall_mem_cons.1 hframes
    have hexec := exec_init_frame_in_receiving hrx hdecode hvalid
    obtain ⟨t, ht, hsame, htrace, houtcomes⟩ := ih (s.report (.single ⟨.concurrentTransferRejected, false⟩)) hrx hrest
    refine ⟨t, (execList_cons_of_next hexec _).trans ht, hsame, htrace, ?_⟩
    rw [houtcomes, report_outcomes, List.append_assoc]
    rfl

/-! ### The frame of zero bytes (R138) -/

/-- The packet that zero bytes spell. -/
def zeroPacket : Packet := .init false 0 0 0 0 []

theorem packetValid_zeroPacket : packetValid zeroPacket = true := rfl

/-- R55: the first nine zero bytes are the packet, and the others are ignored. -/
theorem decodeFrame_zeros (P : Params) {n : Nat} (hn : 9 ≤ n) :
    decodeFrame P (List.replicate n 0) = .ok zeroPacket := by
  refine decodeFrame_eq_ok_iff.2 ⟨wf_init_iff.2 ⟨Nat.zero_le _, rfl⟩, List.replicate (n - 9) 0, ?_⟩
  calc List.replicate n 0 = List.replicate 9 0 ++ List.replicate (n - 9) 0 := by
        rw [List.replicate_append_replicate, Nat.add_sub_cancel' hn]
    _ = encodePacket zeroPacket ++ List.replicate (n - 9) 0 := rfl

/-- R83: in RECEIVING an INIT is rejected, and in IDLE this one has no bytes to store and sets the count of 0 it finds. -/
theorem storesNothing_zeroPacket (s : State) : StoresNothing s zeroPacket := by
  by_cases hrx : s.rxReceivedLen = 0
  · exact ⟨(if_neg (not_not.2 hrx)).trans hrx.symm, if_neg (not_not.2 hrx)⟩
  · exact storesNothing_init hrx false 0 0 0 0 []

/-- Settles O45. -/
theorem allZeroFrameIsHarmless : Obligations.AllZeroFrameIsHarmless := by
  intro s n hn
  have hdecode := decodeFrame_zeros s.params hn
  obtain ⟨t, ht, hreceives⟩ := exec_of_valid (s := s) packetValid_zeroPacket fun _ => Nat.zero_le _
  obtain ⟨hsame, houtputs⟩ := hreceives.sameBlock_of_storesNothing (storesNothing_zeroPacket s) rfl
  have hcause : causeOf s zeroPacket = if s.rxReceivedLen = 0 then .none else .concurrentTransferRejected :=
    ite_not _ _ _
  exact ⟨hdecode, packetValid_zeroPacket, t, (exec_onPacketReceived_of_decodeFrame hdecode).trans ht, hsame,
    hcause ▸ houtputs⟩

end Sys2Proof.Machine
end
